-- ==== Sys2Proof/Word.lean ====
section
/-!
DEFINITION. The machine's word types and their plainest arithmetic
(spec/00_scope.md R9, R12, R13; spec/10_state.md R23, R27).
-/

namespace Sys2Proof

/-- A 32-bit word: XLEN = 32 (R9); every value is 32 bits unless a width is given (R12). -/
abbrev Word := BitVec 32

/-- One byte of the store (R51). -/
abbrev Byte := BitVec 8

/-- A general-register index, a 5-bit unsigned field (R40, R96). -/
abbrev RegIdx := BitVec 5

/-- A CSR index, a 12-bit unsigned field (R27, R96). -/
abbrev CsrIdx := BitVec 12

/-- `signed(v)`: the two's-complement integer of a word (R13). -/
abbrev signed (v : Word) : Int := v.toInt

/-- `unsigned(v)`: the natural-number value of a word (R13). -/
abbrev unsigned (v : Word) : Nat := v.toNat

end Sys2Proof
end

