-- ==== Sys2Proof/Machine/Bits.lean ====
section
/-!
DEFINITION. Bit fields, sign and zero extension and byte order: the helpers of spec/00_scope.md
R12 to R14 that the decoder, the encoder and the meanings share.
-/

namespace Sys2Proof

/-- `sext_N(v)`: bits `N-1..0` of `v`, the rest copies of bit `N-1` (R14). -/
def sext (n : Nat) (v : Word) : Word := (v.setWidth n).signExtend 32

/-- `zext_N(v)`: bits `N-1..0` of `v`, the rest 0 (R14). -/
def zext (n : Nat) (v : Word) : Word := (v.setWidth n).setWidth 32

/-- The field `f` placed with its bit 0 at bit `lo` of a word, every other bit 0. -/
def put (lo : Nat) {n : Nat} (f : BitVec n) : Word := f.setWidth 32 <<< lo

/-- The four bytes of a word as the store holds them, the byte at the lowest address first: little-endian (R53, R55). -/
def bytesOfWord (w : Word) : List Byte :=
  [w.extractLsb' 0 8, w.extractLsb' 8 8, w.extractLsb' 16 8, w.extractLsb' 24 8]

/-- The word whose little-endian bytes are `b0` (lowest address) to `b3` (R53). -/
def wordOfBytes (b0 b1 b2 b3 : Byte) : Word := put 0 b0 ||| put 8 b1 ||| put 16 b2 ||| put 24 b3

end Sys2Proof
end

