-- ==== Sys2Proof/Syntax.lean ====
section
/-!
DEFINITION. The instructions: one constructor per row of spec/opcode_table.json, in the table's
order, each with the operand record that spec/30_encoding.md R97 gives it. Immediates are the
extended 32-bit words of R91 to R95; which words the encoding admits is WellFormed.lean's check.
-/

namespace Sys2Proof

/-- A decoded variant (R97): "a closed, opcode-derived variant" that carries "only the operand fields it needs". -/
inductive Instr where
  /-- LUI: spec/40_integer.md R134. -/
  | lui (rd : RegIdx) (imm : Word)
  /-- AUIPC: spec/40_integer.md R135. -/
  | auipc (rd : RegIdx) (imm : Word)
  /-- JAL: spec/41_control.md R174. -/
  | jal (rd : RegIdx) (imm : Word)
  /-- JALR: spec/41_control.md R175. -/
  | jalr (rd rs1 : RegIdx) (imm : Word)
  /-- BEQ: spec/41_control.md R177. -/
  | beq (rs1 rs2 : RegIdx) (imm : Word)
  /-- BNE: spec/41_control.md R178. -/
  | bne (rs1 rs2 : RegIdx) (imm : Word)
  /-- BLT: spec/41_control.md R179. -/
  | blt (rs1 rs2 : RegIdx) (imm : Word)
  /-- BGE: spec/41_control.md R180. -/
  | bge (rs1 rs2 : RegIdx) (imm : Word)
  /-- BLTU: spec/41_control.md R181. -/
  | bltu (rs1 rs2 : RegIdx) (imm : Word)
  /-- BGEU: spec/41_control.md R182. -/
  | bgeu (rs1 rs2 : RegIdx) (imm : Word)
  /-- LB: spec/42_load_store.md R193. -/
  | lb (rd rs1 : RegIdx) (imm : Word)
  /-- LH: spec/42_load_store.md R194. -/
  | lh (rd rs1 : RegIdx) (imm : Word)
  /-- LW: spec/42_load_store.md R195. -/
  | lw (rd rs1 : RegIdx) (imm : Word)
  /-- LBU: spec/42_load_store.md R196. -/
  | lbu (rd rs1 : RegIdx) (imm : Word)
  /-- LHU: spec/42_load_store.md R197. -/
  | lhu (rd rs1 : RegIdx) (imm : Word)
  /-- SB: spec/42_load_store.md R198. -/
  | sb (rs1 rs2 : RegIdx) (imm : Word)
  /-- SH: spec/42_load_store.md R199. -/
  | sh (rs1 rs2 : RegIdx) (imm : Word)
  /-- SW: spec/42_load_store.md R200. -/
  | sw (rs1 rs2 : RegIdx) (imm : Word)
  /-- ADDI: spec/40_integer.md R136. -/
  | addi (rd rs1 : RegIdx) (imm : Word)
  /-- SLTI: spec/40_integer.md R137. -/
  | slti (rd rs1 : RegIdx) (imm : Word)
  /-- SLTIU: spec/40_integer.md R138. -/
  | sltiu (rd rs1 : RegIdx) (imm : Word)
  /-- XORI: spec/40_integer.md R139. -/
  | xori (rd rs1 : RegIdx) (imm : Word)
  /-- ORI: spec/40_integer.md R140. -/
  | ori (rd rs1 : RegIdx) (imm : Word)
  /-- ANDI: spec/40_integer.md R141. -/
  | andi (rd rs1 : RegIdx) (imm : Word)
  /-- SLLI: spec/40_integer.md R142. -/
  | slli (rd rs1 : RegIdx) (shamt : BitVec 5)
  /-- SRLI: spec/40_integer.md R143. -/
  | srli (rd rs1 : RegIdx) (shamt : BitVec 5)
  /-- SRAI: spec/40_integer.md R144. -/
  | srai (rd rs1 : RegIdx) (shamt : BitVec 5)
  /-- ADD: spec/40_integer.md R145. -/
  | add (rd rs1 rs2 : RegIdx)
  /-- SUB: spec/40_integer.md R146. -/
  | sub (rd rs1 rs2 : RegIdx)
  /-- SLL: spec/40_integer.md R147. -/
  | sll (rd rs1 rs2 : RegIdx)
  /-- SLT: spec/40_integer.md R148. -/
  | slt (rd rs1 rs2 : RegIdx)
  /-- SLTU: spec/40_integer.md R149. -/
  | sltu (rd rs1 rs2 : RegIdx)
  /-- XOR: spec/40_integer.md R150. -/
  | xor (rd rs1 rs2 : RegIdx)
  /-- SRL: spec/40_integer.md R151. -/
  | srl (rd rs1 rs2 : RegIdx)
  /-- SRA: spec/40_integer.md R152. -/
  | sra (rd rs1 rs2 : RegIdx)
  /-- OR: spec/40_integer.md R153. -/
  | or (rd rs1 rs2 : RegIdx)
  /-- AND: spec/40_integer.md R154. -/
  | and (rd rs1 rs2 : RegIdx)
  /-- FENCE: spec/44_system.md R237. -/
  | fence (pred succ : BitVec 4)
  /-- FENCE.I: spec/44_system.md R238. -/
  | fenceI
  /-- ECALL: spec/44_system.md R231. -/
  | ecall
  /-- EBREAK: spec/44_system.md R232. -/
  | ebreak
  /-- URET: spec/44_system.md R233. -/
  | uret
  /-- SRET: spec/44_system.md R234. -/
  | sret
  /-- WFI: spec/44_system.md R236. -/
  | wfi
  /-- MRET: spec/44_system.md R235. -/
  | mret
  /-- SFENCE.VMA: spec/44_system.md R239. -/
  | sfenceVma (rs1 rs2 : RegIdx)
  /-- CSRRW: spec/43_csr.md R213. -/
  | csrrw (rd rs1 : RegIdx) (csr : CsrIdx)
  /-- CSRRS: spec/43_csr.md R214. -/
  | csrrs (rd rs1 : RegIdx) (csr : CsrIdx)
  /-- CSRRC: spec/43_csr.md R215. -/
  | csrrc (rd rs1 : RegIdx) (csr : CsrIdx)
  /-- CSRRWI: spec/43_csr.md R216. -/
  | csrrwi (rd : RegIdx) (zimm : BitVec 5) (csr : CsrIdx)
  /-- CSRRSI: spec/43_csr.md R217. -/
  | csrrsi (rd : RegIdx) (zimm : BitVec 5) (csr : CsrIdx)
  /-- CSRRCI: spec/43_csr.md R218. -/
  | csrrci (rd : RegIdx) (zimm : BitVec 5) (csr : CsrIdx)
  deriving DecidableEq, Repr

/-- The instruction's mnemonic, letter for letter as spec/opcode_table.json has it. -/
def Instr.mnemonic : Instr → String
  | .lui _ _ => "LUI"
  | .auipc _ _ => "AUIPC"
  | .jal _ _ => "JAL"
  | .jalr _ _ _ => "JALR"
  | .beq _ _ _ => "BEQ"
  | .bne _ _ _ => "BNE"
  | .blt _ _ _ => "BLT"
  | .bge _ _ _ => "BGE"
  | .bltu _ _ _ => "BLTU"
  | .bgeu _ _ _ => "BGEU"
  | .lb _ _ _ => "LB"
  | .lh _ _ _ => "LH"
  | .lw _ _ _ => "LW"
  | .lbu _ _ _ => "LBU"
  | .lhu _ _ _ => "LHU"
  | .sb _ _ _ => "SB"
  | .sh _ _ _ => "SH"
  | .sw _ _ _ => "SW"
  | .addi _ _ _ => "ADDI"
  | .slti _ _ _ => "SLTI"
  | .sltiu _ _ _ => "SLTIU"
  | .xori _ _ _ => "XORI"
  | .ori _ _ _ => "ORI"
  | .andi _ _ _ => "ANDI"
  | .slli _ _ _ => "SLLI"
  | .srli _ _ _ => "SRLI"
  | .srai _ _ _ => "SRAI"
  | .add _ _ _ => "ADD"
  | .sub _ _ _ => "SUB"
  | .sll _ _ _ => "SLL"
  | .slt _ _ _ => "SLT"
  | .sltu _ _ _ => "SLTU"
  | .xor _ _ _ => "XOR"
  | .srl _ _ _ => "SRL"
  | .sra _ _ _ => "SRA"
  | .or _ _ _ => "OR"
  | .and _ _ _ => "AND"
  | .fence _ _ => "FENCE"
  | .fenceI => "FENCE.I"
  | .ecall => "ECALL"
  | .ebreak => "EBREAK"
  | .uret => "URET"
  | .sret => "SRET"
  | .wfi => "WFI"
  | .mret => "MRET"
  | .sfenceVma _ _ => "SFENCE.VMA"
  | .csrrw _ _ _ => "CSRRW"
  | .csrrs _ _ _ => "CSRRS"
  | .csrrc _ _ _ => "CSRRC"
  | .csrrwi _ _ _ => "CSRRWI"
  | .csrrsi _ _ _ => "CSRRSI"
  | .csrrci _ _ _ => "CSRRCI"

end Sys2Proof
end

