-- ==== Sys2Proof/WellFormed.lean ====
section
/-!
DEFINITION. Which instructions the encoding can express: an immediate must be a word that the
immediate rules R91 to R95 of spec/30_encoding.md can produce. Every other operand is a bit field
of its exact width, so every value of it is encodable.
-/

namespace Sys2Proof

/-- An I or S immediate: the sign extension of its own low 12 bits, -2048 .. 2047 (R91, R92). -/
def isImm12 (imm : Word) : Bool := sext 12 imm == imm

/-- A B immediate: a sign-extended 13-bit byte offset whose bit 0 is 0, -4096 .. 4094 (R93). -/
def isImmB (imm : Word) : Bool := sext 13 imm == imm && !imm.getLsbD 0

/-- A U immediate: its low 12 bits are 0 (R94). -/
def isImmU (imm : Word) : Bool := imm.extractLsb' 0 12 == 0#12

/-- A J immediate: a sign-extended 21-bit byte offset whose bit 0 is 0 (R95). -/
def isImmJ (imm : Word) : Bool := sext 21 imm == imm && !imm.getLsbD 0

/-- The instruction has an encoding: its immediate is one the format can hold. -/
def Instr.wf : Instr → Bool
  | .lui _ imm => isImmU imm
  | .auipc _ imm => isImmU imm
  | .jal _ imm => isImmJ imm
  | .jalr _ _ imm => isImm12 imm
  | .beq _ _ imm => isImmB imm
  | .bne _ _ imm => isImmB imm
  | .blt _ _ imm => isImmB imm
  | .bge _ _ imm => isImmB imm
  | .bltu _ _ imm => isImmB imm
  | .bgeu _ _ imm => isImmB imm
  | .lb _ _ imm => isImm12 imm
  | .lh _ _ imm => isImm12 imm
  | .lw _ _ imm => isImm12 imm
  | .lbu _ _ imm => isImm12 imm
  | .lhu _ _ imm => isImm12 imm
  | .sb _ _ imm => isImm12 imm
  | .sh _ _ imm => isImm12 imm
  | .sw _ _ imm => isImm12 imm
  | .addi _ _ imm => isImm12 imm
  | .slti _ _ imm => isImm12 imm
  | .sltiu _ _ imm => isImm12 imm
  | .xori _ _ imm => isImm12 imm
  | .ori _ _ imm => isImm12 imm
  | .andi _ _ imm => isImm12 imm
  | .slli _ _ _ => true
  | .srli _ _ _ => true
  | .srai _ _ _ => true
  | .add _ _ _ => true
  | .sub _ _ _ => true
  | .sll _ _ _ => true
  | .slt _ _ _ => true
  | .sltu _ _ _ => true
  | .xor _ _ _ => true
  | .srl _ _ _ => true
  | .sra _ _ _ => true
  | .or _ _ _ => true
  | .and _ _ _ => true
  | .fence _ _ => true
  | .fenceI => true
  | .ecall => true
  | .ebreak => true
  | .uret => true
  | .sret => true
  | .wfi => true
  | .mret => true
  | .sfenceVma _ _ => true
  | .csrrw _ _ _ => true
  | .csrrs _ _ _ => true
  | .csrrc _ _ _ => true
  | .csrrwi _ _ _ => true
  | .csrrsi _ _ _ => true
  | .csrrci _ _ _ => true

end Sys2Proof
end

