-- ==== Sys2Proof/Decode.lean ====
section
/-!
DEFINITION. The decoder of spec/30_encoding.md (R80 to R112), total on every byte list and
rejecting by name, and after it the encoder of well-formed instructions, written from the formats
R82 to R90. The opcode table's mask and match pairs stand here too, so that the dispatch of R99
can be compared with the table (R110).
-/

namespace Sys2Proof

/-! ## Fields (R81 to R86) -/

/-- `w[6:0]` (R81). -/
def opcodeOf (w : Word) : BitVec 7 := w.extractLsb' 0 7
/-- `w[11:7]` (R81). -/
def rdOf (w : Word) : RegIdx := w.extractLsb' 7 5
/-- `w[14:12]` (R81). -/
def funct3Of (w : Word) : BitVec 3 := w.extractLsb' 12 3
/-- `w[19:15]` (R81). -/
def rs1Of (w : Word) : RegIdx := w.extractLsb' 15 5
/-- `w[24:20]` (R81). -/
def rs2Of (w : Word) : RegIdx := w.extractLsb' 20 5
/-- `w[31:25]` (R81). -/
def funct7Of (w : Word) : BitVec 7 := w.extractLsb' 25 7
/-- `w[31:20]`, the selector of the six SYSTEM sentinel forms (R106). -/
def imm12Of (w : Word) : BitVec 12 := w.extractLsb' 20 12
/-- The 5-bit shift amount `w[24:20]` (R84, R96). -/
def shamtOf (w : Word) : BitVec 5 := w.extractLsb' 20 5
/-- The 12-bit CSR index `w[31:20]` (R85, R96). -/
def csrOf (w : Word) : CsrIdx := w.extractLsb' 20 12
/-- The 5-bit unsigned immediate `w[19:15]` (R85, R96). -/
def zimmOf (w : Word) : BitVec 5 := w.extractLsb' 15 5
/-- FENCE's predecessor set `w[27:24]` (R86, R96). -/
def predOf (w : Word) : BitVec 4 := w.extractLsb' 24 4
/-- FENCE's successor set `w[23:20]` (R86, R96). -/
def succOf (w : Word) : BitVec 4 := w.extractLsb' 20 4

/-! ## Immediates (R91 to R95) -/

/-- `immI = sext_12(w[31:20])` (R91). -/
def immI (w : Word) : Word := sext 12 (put 0 (w.extractLsb' 20 12))

/-- `immS = sext_12({w[31:25], w[11:7]})` (R92). -/
def immS (w : Word) : Word := sext 12 (put 5 (w.extractLsb' 25 7) ||| put 0 (w.extractLsb' 7 5))

/-- `immB = sext_13({w[31], w[7], w[30:25], w[11:8], 0b0})` (R93). -/
def immB (w : Word) : Word :=
  sext 13 (put 12 (w.extractLsb' 31 1) ||| put 11 (w.extractLsb' 7 1)
    ||| put 5 (w.extractLsb' 25 6) ||| put 1 (w.extractLsb' 8 4))

/-- `immU = {w[31:12], 0x000}` (R94). -/
def immU (w : Word) : Word := put 12 (w.extractLsb' 12 20)

/-- `immJ = sext_21({w[31], w[19:12], w[20], w[30:21], 0b0})` (R95). -/
def immJ (w : Word) : Word :=
  sext 21 (put 20 (w.extractLsb' 31 1) ||| put 12 (w.extractLsb' 12 8)
    ||| put 11 (w.extractLsb' 20 1) ||| put 1 (w.extractLsb' 21 10))

/-! ## Dispatch (R98 to R107) -/

/-- BRANCH, by funct3 (R102). -/
def decodeBranch (w : Word) : Option Instr :=
  match funct3Of w with
  | 0b000#3 => some (.beq (rs1Of w) (rs2Of w) (immB w))
  | 0b001#3 => some (.bne (rs1Of w) (rs2Of w) (immB w))
  | 0b100#3 => some (.blt (rs1Of w) (rs2Of w) (immB w))
  | 0b101#3 => some (.bge (rs1Of w) (rs2Of w) (immB w))
  | 0b110#3 => some (.bltu (rs1Of w) (rs2Of w) (immB w))
  | 0b111#3 => some (.bgeu (rs1Of w) (rs2Of w) (immB w))
  | _ => none

/-- LOAD, by funct3 (R100). -/
def decodeLoad (w : Word) : Option Instr :=
  match funct3Of w with
  | 0b000#3 => some (.lb (rdOf w) (rs1Of w) (immI w))
  | 0b001#3 => some (.lh (rdOf w) (rs1Of w) (immI w))
  | 0b010#3 => some (.lw (rdOf w) (rs1Of w) (immI w))
  | 0b100#3 => some (.lbu (rdOf w) (rs1Of w) (immI w))
  | 0b101#3 => some (.lhu (rdOf w) (rs1Of w) (immI w))
  | _ => none

/-- STORE, by funct3 (R101). -/
def decodeStore (w : Word) : Option Instr :=
  match funct3Of w with
  | 0b000#3 => some (.sb (rs1Of w) (rs2Of w) (immS w))
  | 0b001#3 => some (.sh (rs1Of w) (rs2Of w) (immS w))
  | 0b010#3 => some (.sw (rs1Of w) (rs2Of w) (immS w))
  | _ => none

/-- OP-IMM, by funct3 and, for the shifts, funct7 (R103). -/
def decodeOpImm (w : Word) : Option Instr :=
  match funct3Of w with
  | 0b000#3 => some (.addi (rdOf w) (rs1Of w) (immI w))
  | 0b010#3 => some (.slti (rdOf w) (rs1Of w) (immI w))
  | 0b011#3 => some (.sltiu (rdOf w) (rs1Of w) (immI w))
  | 0b100#3 => some (.xori (rdOf w) (rs1Of w) (immI w))
  | 0b110#3 => some (.ori (rdOf w) (rs1Of w) (immI w))
  | 0b111#3 => some (.andi (rdOf w) (rs1Of w) (immI w))
  | 0b001#3 =>
    match funct7Of w with
    | 0b0000000#7 => some (.slli (rdOf w) (rs1Of w) (shamtOf w))
    | _ => none
  | 0b101#3 =>
    match funct7Of w with
    | 0b0000000#7 => some (.srli (rdOf w) (rs1Of w) (shamtOf w))
    | 0b0100000#7 => some (.srai (rdOf w) (rs1Of w) (shamtOf w))
    | _ => none
  | _ => none

/-- OP, by funct7 and funct3 (R104). -/
def decodeOp (w : Word) : Option Instr :=
  match funct7Of w with
  | 0b0000000#7 =>
    match funct3Of w with
    | 0b000#3 => some (.add (rdOf w) (rs1Of w) (rs2Of w))
    | 0b001#3 => some (.sll (rdOf w) (rs1Of w) (rs2Of w))
    | 0b010#3 => some (.slt (rdOf w) (rs1Of w) (rs2Of w))
    | 0b011#3 => some (.sltu (rdOf w) (rs1Of w) (rs2Of w))
    | 0b100#3 => some (.xor (rdOf w) (rs1Of w) (rs2Of w))
    | 0b101#3 => some (.srl (rdOf w) (rs1Of w) (rs2Of w))
    | 0b110#3 => some (.or (rdOf w) (rs1Of w) (rs2Of w))
    | 0b111#3 => some (.and (rdOf w) (rs1Of w) (rs2Of w))
    | _ => none
  | 0b0100000#7 =>
    match funct3Of w with
    | 0b000#3 => some (.sub (rdOf w) (rs1Of w) (rs2Of w))
    | 0b101#3 => some (.sra (rdOf w) (rs1Of w) (rs2Of w))
    | _ => none
  | _ => none

/-- MISC-MEM, by funct3 (R105); every other field is uncompared. -/
def decodeMiscMem (w : Word) : Option Instr :=
  match funct3Of w with
  | 0b000#3 => some (.fence (predOf w) (succOf w))
  | 0b001#3 => some .fenceI
  | _ => none

/-- SYSTEM with funct3 000, by the sentinel `w[31:20]` and, where it is none of the six, funct7 (R106). -/
def decodeSentinel (w : Word) : Option Instr :=
  match imm12Of w with
  | 0x000#12 => some .ecall
  | 0x001#12 => some .ebreak
  | 0x002#12 => some .uret
  | 0x102#12 => some .sret
  | 0x105#12 => some .wfi
  | 0x302#12 => some .mret
  | _ =>
    match funct7Of w with
    | 0b0001001#7 => some (.sfenceVma (rs1Of w) (rs2Of w))
    | _ => none

/-- SYSTEM, by funct3 (R106). -/
def decodeSystem (w : Word) : Option Instr :=
  match funct3Of w with
  | 0b000#3 => decodeSentinel w
  | 0b001#3 => some (.csrrw (rdOf w) (rs1Of w) (csrOf w))
  | 0b010#3 => some (.csrrs (rdOf w) (rs1Of w) (csrOf w))
  | 0b011#3 => some (.csrrc (rdOf w) (rs1Of w) (csrOf w))
  | 0b101#3 => some (.csrrwi (rdOf w) (zimmOf w) (csrOf w))
  | 0b110#3 => some (.csrrsi (rdOf w) (zimmOf w) (csrOf w))
  | 0b111#3 => some (.csrrci (rdOf w) (zimmOf w) (csrOf w))
  | _ => none

/-- JALR, which requires funct3 000 (R107). -/
def decodeJalr (w : Word) : Option Instr :=
  match funct3Of w with
  | 0b000#3 => some (.jalr (rdOf w) (rs1Of w) (immI w))
  | _ => none

/-- `Decode(w)` (R99): first on the opcode, then on funct3, funct7 and the sentinels; any word on
no path is a decode failure (R109). A pure, total function of the word (R97, R110). -/
def decode (w : Word) : Option Instr :=
  match opcodeOf w with
  | 0b0110111#7 => some (.lui (rdOf w) (immU w))
  | 0b0010111#7 => some (.auipc (rdOf w) (immU w))
  | 0b1101111#7 => some (.jal (rdOf w) (immJ w))
  | 0b1100111#7 => decodeJalr w
  | 0b1100011#7 => decodeBranch w
  | 0b0000011#7 => decodeLoad w
  | 0b0100011#7 => decodeStore w
  | 0b0010011#7 => decodeOpImm w
  | 0b0110011#7 => decodeOp w
  | 0b0001111#7 => decodeMiscMem w
  | 0b1110011#7 => decodeSystem w
  | _ => none

/-! ## Bytes -/

/-- Why the decoder rejects a byte list. -/
inductive DecodeReject where
  /-- Fewer than the four bytes of an instruction word (R80). Raised by `decodeBytes` only: the cycle always fetches four bytes. -/
  | tooShort
  /-- `DecodeError(w)`: the word matches no opcode/funct combination (R109). -/
  | decodeError (w : Word)
  deriving DecidableEq, Repr

/-- What the decoder makes of a byte list: an instruction and the bytes after it, or a rejection by name. -/
inductive Decoded where
  | instr (i : Instr) (rest : List Byte)
  | reject (why : DecodeReject)
  deriving DecidableEq, Repr

/-- Decode the instruction at the head of a byte list, lowest address first: every instruction is
one little-endian 32-bit word (R80, R55). -/
def decodeBytes : List Byte → Decoded
  | b0 :: b1 :: b2 :: b3 :: rest =>
    match decode (wordOfBytes b0 b1 b2 b3) with
    | some i => .instr i rest
    | none => .reject (.decodeError (wordOfBytes b0 b1 b2 b3))
  | _ => .reject .tooShort

/-- The word whose bits 0 .. `nbits-1` are those of `w`, every bit above them 0. -/
def tableWord (nbits w : Nat) : Word := BitVec.ofNat 32 (w % 2 ^ nbits)

/-- The instruction the decoder reads from the bytes of a table row's word. -/
def decodeTableWord (nbits w : Nat) : Option Instr :=
  match decodeBytes (bytesOfWord (tableWord nbits w)) with
  | .instr i _ => some i
  | .reject _ => none

/-! ## The opcode table's pairs (R110) -/

/-- One row of spec/opcode_table.json: a word `w` is the row's instruction when `w & mask = match`. -/
structure TableRow where
  mnemonic : String
  fixed : Word
  mask : Word
  deriving DecidableEq, Repr

/-- The row's mask and match pair accepts the word (spec/INDEX.md, opcode_table.json). -/
def TableRow.accepts (row : TableRow) (w : Word) : Bool := w &&& row.mask == row.fixed

/-- Rows LUI, AUIPC, JAL, JALR, BEQ, BNE, BLT, BGE, BLTU, BGEU of the opcode table. -/
def tableControl : List TableRow :=
  [⟨"LUI", 0x00000037, 0x0000007F⟩,
   ⟨"AUIPC", 0x00000017, 0x0000007F⟩,
   ⟨"JAL", 0x0000006F, 0x0000007F⟩,
   ⟨"JALR", 0x00000067, 0x0000707F⟩,
   ⟨"BEQ", 0x00000063, 0x0000707F⟩,
   ⟨"BNE", 0x00001063, 0x0000707F⟩,
   ⟨"BLT", 0x00004063, 0x0000707F⟩,
   ⟨"BGE", 0x00005063, 0x0000707F⟩,
   ⟨"BLTU", 0x00006063, 0x0000707F⟩,
   ⟨"BGEU", 0x00007063, 0x0000707F⟩]

/-- Rows LB, LH, LW, LBU, LHU, SB, SH, SW of the opcode table. -/
def tableMemory : List TableRow :=
  [⟨"LB", 0x00000003, 0x0000707F⟩,
   ⟨"LH", 0x00001003, 0x0000707F⟩,
   ⟨"LW", 0x00002003, 0x0000707F⟩,
   ⟨"LBU", 0x00004003, 0x0000707F⟩,
   ⟨"LHU", 0x00005003, 0x0000707F⟩,
   ⟨"SB", 0x00000023, 0x0000707F⟩,
   ⟨"SH", 0x00001023, 0x0000707F⟩,
   ⟨"SW", 0x00002023, 0x0000707F⟩]

/-- Rows ADDI, SLTI, SLTIU, XORI, ORI, ANDI, SLLI, SRLI, SRAI of the opcode table. -/
def tableOpImm : List TableRow :=
  [⟨"ADDI", 0x00000013, 0x0000707F⟩,
   ⟨"SLTI", 0x00002013, 0x0000707F⟩,
   ⟨"SLTIU", 0x00003013, 0x0000707F⟩,
   ⟨"XORI", 0x00004013, 0x0000707F⟩,
   ⟨"ORI", 0x00006013, 0x0000707F⟩,
   ⟨"ANDI", 0x00007013, 0x0000707F⟩,
   ⟨"SLLI", 0x00001013, 0xFE00707F⟩,
   ⟨"SRLI", 0x00005013, 0xFE00707F⟩,
   ⟨"SRAI", 0x40005013, 0xFE00707F⟩]

/-- Rows ADD, SUB, SLL, SLT, SLTU, XOR, SRL, SRA, OR, AND of the opcode table. -/
def tableOp : List TableRow :=
  [⟨"ADD", 0x00000033, 0xFE00707F⟩,
   ⟨"SUB", 0x40000033, 0xFE00707F⟩,
   ⟨"SLL", 0x00001033, 0xFE00707F⟩,
   ⟨"SLT", 0x00002033, 0xFE00707F⟩,
   ⟨"SLTU", 0x00003033, 0xFE00707F⟩,
   ⟨"XOR", 0x00004033, 0xFE00707F⟩,
   ⟨"SRL", 0x00005033, 0xFE00707F⟩,
   ⟨"SRA", 0x40005033, 0xFE00707F⟩,
   ⟨"OR", 0x00006033, 0xFE00707F⟩,
   ⟨"AND", 0x00007033, 0xFE00707F⟩]

/-- Rows FENCE, FENCE.I, ECALL, EBREAK, URET, SRET, WFI, MRET, SFENCE.VMA of the opcode table. -/
def tableSystem : List TableRow :=
  [⟨"FENCE", 0x0000000F, 0x0000707F⟩,
   ⟨"FENCE.I", 0x0000100F, 0x0000707F⟩,
   ⟨"ECALL", 0x00000073, 0xFFF0707F⟩,
   ⟨"EBREAK", 0x00100073, 0xFFF0707F⟩,
   ⟨"URET", 0x00200073, 0xFFF0707F⟩,
   ⟨"SRET", 0x10200073, 0xFFF0707F⟩,
   ⟨"WFI", 0x10500073, 0xFFF0707F⟩,
   ⟨"MRET", 0x30200073, 0xFFF0707F⟩,
   ⟨"SFENCE.VMA", 0x12000073, 0xFE00707F⟩]

/-- Rows CSRRW, CSRRS, CSRRC, CSRRWI, CSRRSI, CSRRCI of the opcode table. -/
def tableCsr : List TableRow :=
  [⟨"CSRRW", 0x00001073, 0x0000707F⟩,
   ⟨"CSRRS", 0x00002073, 0x0000707F⟩,
   ⟨"CSRRC", 0x00003073, 0x0000707F⟩,
   ⟨"CSRRWI", 0x00005073, 0x0000707F⟩,
   ⟨"CSRRSI", 0x00006073, 0x0000707F⟩,
   ⟨"CSRRCI", 0x00007073, 0x0000707F⟩]

/-- The 52 rows of spec/opcode_table.json, in its order (R2, R3). -/
def opcodeTable : List TableRow :=
  tableControl ++ tableMemory ++ tableOpImm ++ tableOp ++ tableSystem ++ tableCsr

/-! ## The encoder (R82 to R90) -/

/-- R format (R82). -/
def encR (op : BitVec 7) (f3 : BitVec 3) (f7 : BitVec 7) (rd rs1 rs2 : RegIdx) : Word :=
  put 25 f7 ||| put 20 rs2 ||| put 15 rs1 ||| put 12 f3 ||| put 7 rd ||| put 0 op

/-- I format (R83): bits 31:20 hold the low 12 bits of the immediate. -/
def encI (op : BitVec 7) (f3 : BitVec 3) (rd rs1 : RegIdx) (imm : Word) : Word :=
  put 20 (imm.extractLsb' 0 12) ||| put 15 rs1 ||| put 12 f3 ||| put 7 rd ||| put 0 op

/-- I format, shift-immediate variant (R84). -/
def encShift (f3 : BitVec 3) (f7 : BitVec 7) (rd rs1 : RegIdx) (shamt : BitVec 5) : Word :=
  put 25 f7 ||| put 20 shamt ||| put 15 rs1 ||| put 12 f3 ||| put 7 rd ||| put 0 0b0010011#7

/-- I-CSR format (R85); `src` is rs1 or zimm. -/
def encCsr (f3 : BitVec 3) (rd : RegIdx) (src : BitVec 5) (csr : CsrIdx) : Word :=
  put 20 csr ||| put 15 src ||| put 12 f3 ||| put 7 rd ||| put 0 0b1110011#7

/-- I format, FENCE variant (R86), with the fields the decoder does not keep at 0 (log entry 6). -/
def encFence (pred succ : BitVec 4) : Word :=
  put 24 pred ||| put 20 succ ||| put 12 0b000#3 ||| put 0 0b0001111#7

/-- The six SYSTEM sentinel forms (R83, R106), with rs1 and rd at 0 (log entry 6). -/
def encSentinel (imm12 : BitVec 12) : Word :=
  put 20 imm12 ||| put 12 0b000#3 ||| put 0 0b1110011#7

/-- S format (R87). -/
def encS (f3 : BitVec 3) (rs1 rs2 : RegIdx) (imm : Word) : Word :=
  put 25 (imm.extractLsb' 5 7) ||| put 20 rs2 ||| put 15 rs1 ||| put 12 f3
    ||| put 7 (imm.extractLsb' 0 5) ||| put 0 0b0100011#7

/-- B format (R88). -/
def encB (f3 : BitVec 3) (rs1 rs2 : RegIdx) (imm : Word) : Word :=
  put 31 (imm.extractLsb' 12 1) ||| put 25 (imm.extractLsb' 5 6) ||| put 20 rs2 ||| put 15 rs1
    ||| put 12 f3 ||| put 8 (imm.extractLsb' 1 4) ||| put 7 (imm.extractLsb' 11 1)
    ||| put 0 0b1100011#7

/-- U format (R89). -/
def encU (op : BitVec 7) (rd : RegIdx) (imm : Word) : Word :=
  put 12 (imm.extractLsb' 12 20) ||| put 7 rd ||| put 0 op

/-- J format (R90). -/
def encJ (rd : RegIdx) (imm : Word) : Word :=
  put 31 (imm.extractLsb' 20 1) ||| put 21 (imm.extractLsb' 1 10) ||| put 20 (imm.extractLsb' 11 1)
    ||| put 12 (imm.extractLsb' 12 8) ||| put 7 rd ||| put 0 0b1101111#7

/-- The word of a well-formed instruction. -/
def encode : Instr → Word
  | .lui rd imm => encU 0b0110111#7 rd imm
  | .auipc rd imm => encU 0b0010111#7 rd imm
  | .jal rd imm => encJ rd imm
  | .jalr rd rs1 imm => encI 0b1100111#7 0b000#3 rd rs1 imm
  | .beq rs1 rs2 imm => encB 0b000#3 rs1 rs2 imm
  | .bne rs1 rs2 imm => encB 0b001#3 rs1 rs2 imm
  | .blt rs1 rs2 imm => encB 0b100#3 rs1 rs2 imm
  | .bge rs1 rs2 imm => encB 0b101#3 rs1 rs2 imm
  | .bltu rs1 rs2 imm => encB 0b110#3 rs1 rs2 imm
  | .bgeu rs1 rs2 imm => encB 0b111#3 rs1 rs2 imm
  | .lb rd rs1 imm => encI 0b0000011#7 0b000#3 rd rs1 imm
  | .lh rd rs1 imm => encI 0b0000011#7 0b001#3 rd rs1 imm
  | .lw rd rs1 imm => encI 0b0000011#7 0b010#3 rd rs1 imm
  | .lbu rd rs1 imm => encI 0b0000011#7 0b100#3 rd rs1 imm
  | .lhu rd rs1 imm => encI 0b0000011#7 0b101#3 rd rs1 imm
  | .sb rs1 rs2 imm => encS 0b000#3 rs1 rs2 imm
  | .sh rs1 rs2 imm => encS 0b001#3 rs1 rs2 imm
  | .sw rs1 rs2 imm => encS 0b010#3 rs1 rs2 imm
  | .addi rd rs1 imm => encI 0b0010011#7 0b000#3 rd rs1 imm
  | .slti rd rs1 imm => encI 0b0010011#7 0b010#3 rd rs1 imm
  | .sltiu rd rs1 imm => encI 0b0010011#7 0b011#3 rd rs1 imm
  | .xori rd rs1 imm => encI 0b0010011#7 0b100#3 rd rs1 imm
  | .ori rd rs1 imm => encI 0b0010011#7 0b110#3 rd rs1 imm
  | .andi rd rs1 imm => encI 0b0010011#7 0b111#3 rd rs1 imm
  | .slli rd rs1 shamt => encShift 0b001#3 0b0000000#7 rd rs1 shamt
  | .srli rd rs1 shamt => encShift 0b101#3 0b0000000#7 rd rs1 shamt
  | .srai rd rs1 shamt => encShift 0b101#3 0b0100000#7 rd rs1 shamt
  | .add rd rs1 rs2 => encR 0b0110011#7 0b000#3 0b0000000#7 rd rs1 rs2
  | .sub rd rs1 rs2 => encR 0b0110011#7 0b000#3 0b0100000#7 rd rs1 rs2
  | .sll rd rs1 rs2 => encR 0b0110011#7 0b001#3 0b0000000#7 rd rs1 rs2
  | .slt rd rs1 rs2 => encR 0b0110011#7 0b010#3 0b0000000#7 rd rs1 rs2
  | .sltu rd rs1 rs2 => encR 0b0110011#7 0b011#3 0b0000000#7 rd rs1 rs2
  | .xor rd rs1 rs2 => encR 0b0110011#7 0b100#3 0b0000000#7 rd rs1 rs2
  | .srl rd rs1 rs2 => encR 0b0110011#7 0b101#3 0b0000000#7 rd rs1 rs2
  | .sra rd rs1 rs2 => encR 0b0110011#7 0b101#3 0b0100000#7 rd rs1 rs2
  | .or rd rs1 rs2 => encR 0b0110011#7 0b110#3 0b0000000#7 rd rs1 rs2
  | .and rd rs1 rs2 => encR 0b0110011#7 0b111#3 0b0000000#7 rd rs1 rs2
  | .fence pred succ => encFence pred succ
  | .fenceI => encI 0b0001111#7 0b001#3 0 0 0
  | .ecall => encSentinel 0x000#12
  | .ebreak => encSentinel 0x001#12
  | .uret => encSentinel 0x002#12
  | .sret => encSentinel 0x102#12
  | .wfi => encSentinel 0x105#12
  | .mret => encSentinel 0x302#12
  | .sfenceVma rs1 rs2 => encR 0b1110011#7 0b000#3 0b0001001#7 0 rs1 rs2
  | .csrrw rd rs1 csr => encCsr 0b001#3 rd rs1 csr
  | .csrrs rd rs1 csr => encCsr 0b010#3 rd rs1 csr
  | .csrrc rd rs1 csr => encCsr 0b011#3 rd rs1 csr
  | .csrrwi rd zimm csr => encCsr 0b101#3 rd zimm csr
  | .csrrsi rd zimm csr => encCsr 0b110#3 rd zimm csr
  | .csrrci rd zimm csr => encCsr 0b111#3 rd zimm csr

end Sys2Proof
end

