-- ==== Sys2Proof/Config.lean ====
section
/-!
DEFINITION. What is fixed for one machine: the fixed addresses of spec/00_scope.md R9 and the two
open parameters of R10. The parameters are a record of plain data that State carries (log entry 1),
so that every statement over all states is a statement over all parameter values. The spec leaves
no value of this machine free, so there is no opaque constant here.
-/

namespace Sys2Proof

/-- `MEM_BASE`, the logical address of byte 0 of the store (R9, R51). -/
def memBase : Nat := 0x80000000

/-- `RESET_PC`, the reset and entry address (R9, R302). -/
def resetPc : Word := 0x80000000

/-- The open parameters of the block (R10): the store's capacity in bytes and the address of the
host I/O word. -/
structure Params where
  /-- `MEM_SIZE` (R10, R51). -/
  memSize : Nat
  /-- `HOST_IO_ADDR` (R10, R66). -/
  hostIoAddr : Nat
  deriving DecidableEq, Repr

/-- The limits R10 sets on the parameters: `0 < MEM_SIZE <= 2^31`, and the host word lies inside
the store. -/
def Params.valid (p : Params) : Bool :=
  decide (0 < p.memSize) && decide (p.memSize ≤ 2 ^ 31)
    && decide (memBase ≤ p.hostIoAddr) && decide (p.hostIoAddr + 4 ≤ memBase + p.memSize)

/-- The parameter values that spec/95_test_vectors.md uses as its example. DESIGN CHOICE (log entry
1): the reset state carries them; no statement rests on them. -/
def exampleParams : Params := { memSize := 0x10000, hostIoAddr := 0x80001000 }

end Sys2Proof
end

