-- ==== Sys2Proof/Machine/State.lean ====
section
/-!
DEFINITION. The machine's state as plain data (spec/10_state.md, spec/20_memory.md R51), the reasons
a cycle can stop, the transient trap record, and the state after reset (spec/70_reset_and_hazards.md
R300).
-/

namespace Sys2Proof.Machine

/-- The reason of a fatal halt (R36). Each is the spec's own `Fatal(reason)`: the cycle ends, the
failing instruction writes nothing, and the core takes no further step (R281). -/
inductive Fault where
  /-- `FetchError(pc)`: the four bytes at `pc` are not all in the store. Raised by `step` on fetch
  (R52, R261). Safe: it is the stop the spec states. -/
  | fetchError (pc : Word)
  /-- `DecodeError(word, pc)`: the fetched word matches no variant. Raised by `step` on decode
  (R109, R262). Safe: it is the stop the spec states. -/
  | decodeError (word pc : Word)
  /-- `LoadError(addr, pc)`: a load's bytes are not all in the store. Raised by LB, LH, LW, LBU, LHU
  (R52, R191, R263). Safe: it is the stop the spec states. -/
  | loadError (addr pc : Word)
  /-- `StoreError(addr, pc)`: a store's bytes are not all in the store. Raised by SB, SH, SW
  (R52, R191, R263). Safe: it is the stop the spec states. -/
  | storeError (addr pc : Word)
  deriving DecidableEq, Repr

/-- Why the model gives an instruction no meaning. No instruction of this model is refused. -/
inductive Refusal where
  /-- An instruction that has no meaning yet, by its mnemonic. Raised by no arm of `exec`. Safe. -/
  | notModelled (mnemonic : String)
  deriving DecidableEq, Repr

/-- The core's run status (R36). -/
inductive Status where
  | running
  | fatal (reason : Fault)
  deriving DecidableEq, Repr

/-- The exception causes of R266. This block raises only `breakpoint` and `ecallFromM`; the others
are "reserved in the taxonomy" and no rule raises them. -/
inductive Cause where
  | instrAddrMisaligned | instrAccessFault | illegalInstr | breakpoint
  | loadAddrMisaligned | loadAccessFault | storeAddrMisaligned | storeAccessFault
  | ecallFromU | ecallFromS | ecallFromM
  | instrPageFault | loadPageFault | storePageFault
  deriving DecidableEq, Repr

/-- A trap record (R264): made by an instruction's trap check and consumed in the same cycle, so it
is no field of `State`. The kind Interrupt, which no rule makes, is left out as R265 allows (log
entry 5). -/
inductive Trap where
  /-- Kind Exception: a cause, the trapping instruction's pc and an auxiliary value. -/
  | exception (cause : Cause) (pc value : Word)
  /-- Kind Return: the returning instruction's pc, no cause. -/
  | ret (pc : Word)
  deriving DecidableEq, Repr

/-- The backing store as sparse cells keyed by logical address. An unlisted address of the store
holds the byte 0 (R300, log entry 2). -/
abbrev Memory := List Host.Cell

/-- The CSR file as sparse words keyed by CSR index. An unlisted index holds the word 0 (R29). -/
abbrev CsrFile := List (Nat × Word)

/-- The whole state: the block's `pc`, `next_pc`, `x`, `csr` and `status` (10_state.md), the store
the block runs with (R51), and the machine's parameters (R10; the model's own field, log entry 1). -/
structure State where
  /-- `pc`: the address of the instruction being executed (R20). -/
  pc : Word
  /-- `next_pc`: the successor address computed during a cycle (R21). -/
  nextPc : Word
  /-- `x0 .. x31` (R23). Slot 0 stays 0; `State.readReg` and `State.writeReg` hard-wire it (R24). -/
  x : Vector Word 32
  /-- `csr[0] .. csr[4095]` (R27). -/
  csr : CsrFile
  /-- `mem[0 .. MEM_SIZE-1]`, at logical addresses from `MEM_BASE` (R51). -/
  mem : Memory
  /-- `status` (R36). -/
  status : Status
  /-- `MEM_SIZE` and `HOST_IO_ADDR` (R10). No instruction writes them. -/
  params : Params
  deriving DecidableEq, Repr

/-- The machine right after reset with an empty image (R300): `pc` and `next_pc` at `0x8000_0000`,
every register and CSR 0, every byte of the store 0, status Running. The parameter values are the
example ones (log entry 1). -/
def State.reset : State where
  pc := resetPc
  nextPc := resetPc
  x := Vector.replicate 32 0
  csr := []
  mem := []
  status := .running
  params := exampleParams

end Sys2Proof.Machine
end

