-- ==== Sys2Proof/Machine/Flags.lean ====
section
/-!
DEFINITION. The block has no flags (spec/10_state.md R37): comparisons give a value or decide a
branch. Here are the comparisons of R13, the MSTATUS and MTVEC field views of R31 to R33, the
addresses of the CSRs with a behaviour (R30), and the cause codes of spec/60_exceptions.md R266.
-/

namespace Sys2Proof.Machine

/-! ## Comparisons (R13) -/

/-- A comparison used as a value: 1 or 0 (R13). -/
def boolWord (b : Bool) : Word := if b then 1 else 0

/-- `a <s b` (R13). -/
def ltSigned (a b : Word) : Bool := decide (signed a < signed b)

/-- `a <u b` (R13). -/
def ltUnsigned (a b : Word) : Bool := decide (unsigned a < unsigned b)

/-! ## MSTATUS, a field view of a stored word (R31, R32) -/

/-- `get_MIE(m) = m[3]`. -/
def getMie (m : Word) : BitVec 1 := m.extractLsb' 3 1
/-- `get_MPIE(m) = m[7]`. -/
def getMpie (m : Word) : BitVec 1 := m.extractLsb' 7 1
/-- `get_MPP(m) = m[12:11]`. -/
def getMpp (m : Word) : BitVec 2 := m.extractLsb' 11 2
/-- `set_MIE(m, b) = (m & ~0x8) | (b << 3)`. -/
def setMie (m : Word) (b : BitVec 1) : Word := (m &&& ~~~0x00000008) ||| put 3 b
/-- `set_MPIE(m, b) = (m & ~0x80) | (b << 7)`. -/
def setMpie (m : Word) (b : BitVec 1) : Word := (m &&& ~~~0x00000080) ||| put 7 b
/-- `set_MPP(m, p) = (m & ~0x1800) | (p << 11)`. -/
def setMpp (m : Word) (p : BitVec 2) : Word := (m &&& ~~~0x00001800) ||| put 11 p

/-! ## MTVEC (R33) -/

/-- `get_BASE(t) = t[31:2]`. -/
def getBase (t : Word) : BitVec 30 := t.extractLsb' 2 30
/-- `get_MODE(t) = t[1:0]`; stored and ignored. -/
def getMode (t : Word) : BitVec 2 := t.extractLsb' 0 2
/-- The trap target `BASE × 4` (R33, R268). -/
def trapTarget (t : Word) : Word := put 2 (getBase t)

/-! ## CSR addresses (R30) -/

/-- MSTATUS. -/
def csrMstatus : CsrIdx := 0x300
/-- MTVEC. -/
def csrMtvec : CsrIdx := 0x305
/-- MEPC. -/
def csrMepc : CsrIdx := 0x341
/-- MCAUSE. -/
def csrMcause : CsrIdx := 0x342
/-- MTVAL. -/
def csrMtval : CsrIdx := 0x343

/-! ## Cause codes (R266); bit 31 is 0 for every exception -/

/-- The code an exception of this cause writes to MCAUSE. -/
def causeCode : Cause → Word
  | .instrAddrMisaligned => 0
  | .instrAccessFault => 1
  | .illegalInstr => 2
  | .breakpoint => 3
  | .loadAddrMisaligned => 4
  | .loadAccessFault => 5
  | .storeAddrMisaligned => 6
  | .storeAccessFault => 7
  | .ecallFromU => 8
  | .ecallFromS => 9
  | .ecallFromM => 11
  | .instrPageFault => 12
  | .loadPageFault => 13
  | .storePageFault => 15

end Sys2Proof.Machine
end

