-- ==== Sys2Proof/Machine/Sparse.lean ====
section
/-!
DEFINITION. Sparse data by key in one canonical form: keys strictly rising, and no entry equal to
what an unlisted key reads as. The store and the CSR file are both kept so.
-/

namespace Sys2Proof.Machine

/-- The value at key `k`, or `d` where the key is not listed. -/
def sparseGet {α : Type} (d : α) : List (Nat × α) → Nat → α
  | [], _ => d
  | (a, v) :: rest, k => if a = k then v else sparseGet d rest k

/-- The list without any entry at key `k`. -/
def sparseErase {α : Type} (k : Nat) (l : List (Nat × α)) : List (Nat × α) :=
  l.filter (fun e => e.1 != k)

/-- The list with an entry added before the first larger key. -/
def sparseInsert {α : Type} (k : Nat) (v : α) : List (Nat × α) → List (Nat × α)
  | [] => [(k, v)]
  | (a, w) :: rest => if k < a then (k, v) :: (a, w) :: rest else (a, w) :: sparseInsert k v rest

/-- The list with `v` at key `k`; writing the default value removes the entry. -/
def sparseSet {α : Type} [DecidableEq α] (d : α) (l : List (Nat × α)) (k : Nat) (v : α) :
    List (Nat × α) :=
  if v = d then sparseErase k l else sparseInsert k v (sparseErase k l)

/-- The canonical form: keys strictly rising from `lo` on and below `hi`, no entry equal to `d`. -/
def sparseWf {α : Type} [DecidableEq α] (d : α) (lo hi : Nat) : List (Nat × α) → Bool
  | [] => true
  | (a, v) :: rest =>
    decide (lo ≤ a) && decide (a < hi) && decide (v ≠ d) && sparseWf d (a + 1) hi rest

end Sys2Proof.Machine
end

