-- ==== Sys2Proof/Machine/Ops.lean ====
section
/-!
DEFINITION. The named operations over registers, CSRs and memory (spec/00_scope.md R15, R16;
spec/20_memory.md), taking an exception and returning from a trap (spec/60_exceptions.md R264 to
R271), and the two ends of a processor cycle (R260).
-/

namespace Sys2Proof.Machine

/-! ## One update per field -/

def State.withPc (s : State) (v : Word) : State := { s with pc := v }
def State.withNextPc (s : State) (v : Word) : State := { s with nextPc := v }
def State.withRegs (s : State) (v : Vector Word 32) : State := { s with x := v }
def State.withCsrs (s : State) (v : CsrFile) : State := { s with csr := v }
def State.withMem (s : State) (v : Memory) : State := { s with mem := v }
def State.withStatus (s : State) (v : Status) : State := { s with status := v }
def State.withParams (s : State) (v : Params) : State := { s with params := v }

/-! ## General registers (R23, R24) -/

/-- `x[i]`: reads of index 0 always yield 0 (R24). -/
def State.readReg (s : State) (i : RegIdx) : Word :=
  if i = 0 then 0 else s.x[i.toNat]'i.isLt

/-- `x[i] <- v`: writes to index 0 are always discarded (R24). -/
def State.writeReg (s : State) (i : RegIdx) (v : Word) : State :=
  if i = 0 then s else s.withRegs (s.x.set i.toNat v i.isLt)

/-! ## CSRs: 4096 plain 32-bit words (R27, R28) -/

/-- The canonical form of the CSR file: indices strictly rising and below 4096, no entry 0. -/
def CsrFile.wf (c : CsrFile) : Bool := sparseWf (0 : Word) 0 4096 c

/-- `csr[a]`. -/
def State.readCsr (s : State) (a : CsrIdx) : Word := sparseGet 0 s.csr a.toNat

/-- `csr[a] <- v`: every bit is stored (R27, R212). -/
def State.writeCsr (s : State) (a : CsrIdx) (v : Word) : State :=
  s.withCsrs (sparseSet 0 s.csr a.toNat v)

/-! ## The store (R51 to R57) -/

/-- What an address that no write has listed reads as (R300, log entry 2). -/
def unlistedByte : Byte := 0

/-- The canonical form of the store: addresses strictly rising, no entry equal to `unlistedByte`,
every address inside a store of `size` bytes at `MEM_BASE`. -/
def Memory.wfIn (size : Nat) (m : Memory) : Bool :=
  sparseWf unlistedByte memBase (memBase + size) m

/-- The canonical form of a memory of any size: addresses strictly rising from `MEM_BASE` inside
the 32-bit space, no entry equal to `unlistedByte`. -/
def Memory.wf (m : Memory) : Bool := Memory.wfIn (2 ^ 31) m

/-- One byte of the store. -/
def readByte (m : Memory) (a : Nat) : Byte := sparseGet unlistedByte m a

/-- The store with one byte written. -/
def writeByte (m : Memory) (a : Nat) (b : Byte) : Memory := sparseSet unlistedByte m a b

/-- The byte at a logical address of the state's store. -/
def State.byteAt (s : State) (a : Nat) : Byte := readByte s.mem a

/-- The value of `n` bytes at `a`, the byte at the lowest address least significant (R53). -/
def readLE (m : Memory) (a : Nat) : Nat → Word
  | 0 => 0
  | n + 1 => put 0 (readByte m a) ||| (readLE m (a + 1) n <<< 8)

/-- The store with the low `n` bytes of `v` at `a`, low byte first (R54). -/
def writeLE (m : Memory) (a : Nat) : Nat → Word → Memory
  | 0, _ => m
  | n + 1, v => writeLE (writeByte m a (v.setWidth 8)) (a + 1) n (v >>> 8)

/-- The widths of an access: `n` in {1, 2, 4} (R50, R58). -/
inductive Width where
  | byte | half | word
  deriving DecidableEq, Repr

/-- The number of bytes of an access. -/
def widthBytes : Width → Nat
  | .byte => 1
  | .half => 2
  | .word => 4

/-- An access of `n` bytes at `a` is in range: compared as unbounded naturals, no wrap (R52). No
alignment is checked (R57). -/
def inRange (p : Params) (a : Word) (n : Nat) : Bool :=
  decide (memBase ≤ a.toNat) && decide (a.toNat + n ≤ memBase + p.memSize)

/-- `MemRead(a, n)`, or `none` for a bus error (R52, R53). -/
def memRead (s : State) (a : Word) (w : Width) : Option Word :=
  if inRange s.params a (widthBytes w) then some (readLE s.mem a.toNat (widthBytes w)) else none

/-- `MemWrite(a, n, v)`, or `none` for a bus error, which writes no byte (R52, R54). -/
def memWrite (s : State) (a : Word) (w : Width) (v : Word) : Option State :=
  if inRange s.params a (widthBytes w) then
    some (s.withMem (writeLE s.mem a.toNat (widthBytes w) v))
  else none

/-- `BusFetch(pc) = MemRead(pc, 4)` (R55). -/
def busFetch (s : State) : Option Word := memRead s s.pc .word

/-- The store with the bytes of `image` from `a` on (R303). -/
def loadBytes (m : Memory) (a : Nat) : List Byte → Memory
  | [] => m
  | b :: rest => loadBytes (writeByte m a b) (a + 1) rest

/-! ## Traps (R264 to R271) -/

/-- Taking an exception (R267): MPIE := MIE, MIE := 0, MPP := 3; MCAUSE, MEPC and MTVAL written;
`next_pc` at MTVEC.BASE × 4 (R268). Every other MSTATUS bit keeps its value. -/
def exceptionEntry (c : Cause) (p v : Word) (s : State) : State :=
  let m := s.readCsr csrMstatus
  let t := s.readCsr csrMtvec
  ((((s.writeCsr csrMstatus (setMpp (setMie (setMpie m (getMie m)) 0) 0b11)).writeCsr
      csrMcause (causeCode c)).writeCsr csrMepc p).writeCsr csrMtval v).withNextPc (trapTarget t)

/-- Trap return (R270): MPP := 0, MIE := MPIE, `next_pc` := MEPC unmasked. MPIE and every other
MSTATUS bit keep their values. -/
def trapReturn (s : State) : State :=
  let m := s.readCsr csrMstatus
  let m' := setMpp m 0b00
  (s.writeCsr csrMstatus (setMie m' (getMpie m'))).withNextPc (s.readCsr csrMepc)

/-- Route a trap record (R260): an exception is entered, a return is performed; the record's pc is
not used on a return (R270). -/
def routeTrap (t : Trap) (s : State) : State :=
  match t with
  | .exception c p v => exceptionEntry c p v s
  | .ret _ => trapReturn s

/-! ## The two ends of a cycle (R260) -/

/-- `next_pc <- pc + 4`, modulo 2^32 (R21, R22). -/
def beginCycle (s : State) : State := s.withNextPc (s.pc + 4)

/-- The commit `pc <- next_pc`. -/
def commitPc (s : State) : State := s.withPc s.nextPc

/-- Commit after an instruction that completed; a halt ends the cycle at once and `pc` is not
committed. -/
def commitOutcome : Host.Outcome State Fault Refusal → Host.Outcome State Fault Refusal
  | .next s => .next (commitPc s)
  | .fault r => .fault r
  | .refused r => .refused r

end Sys2Proof.Machine
end

