-- ==== Sys2Proof/Machine/Operands.lean ====
section
/-!
DEFINITION. The operand forms of every family and the shapes the meanings share: a result written
to `rd`, a conditional branch, a load, a store and a CSR read-modify-write. Each reads all its
sources before it writes anything (spec/00_scope.md R18).
-/

namespace Sys2Proof.Machine

/-- The effective address `x[rs1] + imm`, modulo 2^32 (R190). -/
def effAddr (rs1 : RegIdx) (imm : Word) (s : State) : Word := s.readReg rs1 + imm

/-- The shift amount of the register forms, `x[rs2][4:0]` (R132). -/
def regShamt (rs2 : RegIdx) (s : State) : BitVec 5 := (s.readReg rs2).extractLsb' 0 5

/-- `v << n` (R13). -/
def shiftLeft (v : Word) (n : BitVec 5) : Word := v <<< n.toNat

/-- `v >>u n` (R13). -/
def shiftRightLogical (v : Word) (n : BitVec 5) : Word := v >>> n.toNat

/-- `v >>s n` (R13). -/
def shiftRightArith (v : Word) (n : BitVec 5) : Word := v.sshiftRight n.toNat

/-- The immediate CSR source `zext_5(zimm)` (R210). -/
def zimmWord (zimm : BitVec 5) : Word := zimm.setWidth 32

/-- `x[rd] <- v` and nothing else: `next_pc` keeps the default successor (R130). -/
def writeResult (rd : RegIdx) (v : Word) (s : State) : Host.Outcome State Fault Refusal :=
  .next (s.writeReg rd v)

/-- A jump to `target` that links the default successor, "`next_pc` prior to the jump", in `rd`
(R170, R174, R175). -/
def jumpAndLink (rd : RegIdx) (target : Word) (s : State) : Host.Outcome State Fault Refusal :=
  .next ((s.withNextPc target).writeReg rd s.nextPc)

/-- `if taken then next_pc <- pc + imm` (R176). -/
def branchIf (taken : Bool) (imm : Word) (s : State) : Host.Outcome State Fault Refusal :=
  .next (if taken then s.withNextPc (s.pc + imm) else s)

/-- A load: read the bytes at the effective address, then write `rd`; a bus error halts (R191, R192). -/
def loadTo (w : Width) (extend : Word → Word) (rd rs1 : RegIdx) (imm : Word) (s : State) :
    Host.Outcome State Fault Refusal :=
  match memRead s (effAddr rs1 imm s) w with
  | some v => writeResult rd (extend v) s
  | none => .fault (.loadError (effAddr rs1 imm s) s.pc)

/-- A store of the low bytes of `x[rs2]` at the effective address; a bus error halts and writes no
byte (R191). -/
def storeFrom (w : Width) (rs1 rs2 : RegIdx) (imm : Word) (s : State) :
    Host.Outcome State Fault Refusal :=
  match memWrite s (effAddr rs1 imm s) w (s.readReg rs2) with
  | some t => .next t
  | none => .fault (.storeError (effAddr rs1 imm s) s.pc)

/-- One atomic read-modify-write of `csr[a]`: the value read goes to `rd` (R210). Both the read and
the write are always performed (R211). -/
def csrUpdate (rd : RegIdx) (a : CsrIdx) (new : Word → Word) (s : State) :
    Host.Outcome State Fault Refusal :=
  .next ((s.writeCsr a (new (s.readCsr a))).writeReg rd (s.readCsr a))

end Sys2Proof.Machine
end

