-- ==== Sys2Proof/Machine/Control.lean ====
section
/-!
DEFINITION. The control-transfer instructions, spec/41_control.md (R170 to R182). Each writes
`next_pc`; the cycle commits it. No target is checked (R171).
-/

namespace Sys2Proof.Machine

/-- JAL (R174). -/
def execJal (rd : RegIdx) (imm : Word) (s : State) : Host.Outcome State Fault Refusal :=
  jumpAndLink rd (s.pc + imm) s

/-- JALR (R175): the target is `x[rs1] + imm` with bit 0 kept, from the old `x[rs1]`. -/
def execJalr (rd rs1 : RegIdx) (imm : Word) (s : State) : Host.Outcome State Fault Refusal :=
  jumpAndLink rd (s.readReg rs1 + imm) s

/-- BEQ (R177). -/
def execBeq (rs1 rs2 : RegIdx) (imm : Word) (s : State) : Host.Outcome State Fault Refusal :=
  branchIf (s.readReg rs1 == s.readReg rs2) imm s

/-- BNE (R178). -/
def execBne (rs1 rs2 : RegIdx) (imm : Word) (s : State) : Host.Outcome State Fault Refusal :=
  branchIf (s.readReg rs1 != s.readReg rs2) imm s

/-- BLT (R179). -/
def execBlt (rs1 rs2 : RegIdx) (imm : Word) (s : State) : Host.Outcome State Fault Refusal :=
  branchIf (ltSigned (s.readReg rs1) (s.readReg rs2)) imm s

/-- BGE (R180). -/
def execBge (rs1 rs2 : RegIdx) (imm : Word) (s : State) : Host.Outcome State Fault Refusal :=
  branchIf (!ltSigned (s.readReg rs1) (s.readReg rs2)) imm s

/-- BLTU (R181). -/
def execBltu (rs1 rs2 : RegIdx) (imm : Word) (s : State) : Host.Outcome State Fault Refusal :=
  branchIf (ltUnsigned (s.readReg rs1) (s.readReg rs2)) imm s

/-- BGEU (R182). -/
def execBgeu (rs1 rs2 : RegIdx) (imm : Word) (s : State) : Host.Outcome State Fault Refusal :=
  branchIf (!ltUnsigned (s.readReg rs1) (s.readReg rs2)) imm s

end Sys2Proof.Machine
end

