-- ==== Sys2Proof/Machine/Csr.lean ====
section
/-!
DEFINITION. The CSR instructions, spec/43_csr.md (R210 to R218).
-/

namespace Sys2Proof.Machine

/-- CSRRW (R213). -/
def execCsrrw (rd rs1 : RegIdx) (csr : CsrIdx) (s : State) : Host.Outcome State Fault Refusal :=
  csrUpdate rd csr (fun _ => s.readReg rs1) s

/-- CSRRS (R214). -/
def execCsrrs (rd rs1 : RegIdx) (csr : CsrIdx) (s : State) : Host.Outcome State Fault Refusal :=
  csrUpdate rd csr (fun old => old ||| s.readReg rs1) s

/-- CSRRC (R215). -/
def execCsrrc (rd rs1 : RegIdx) (csr : CsrIdx) (s : State) : Host.Outcome State Fault Refusal :=
  csrUpdate rd csr (fun old => old &&& ~~~(s.readReg rs1)) s

/-- CSRRWI (R216). -/
def execCsrrwi (rd : RegIdx) (zimm : BitVec 5) (csr : CsrIdx) (s : State) :
    Host.Outcome State Fault Refusal :=
  csrUpdate rd csr (fun _ => zimmWord zimm) s

/-- CSRRSI (R217). -/
def execCsrrsi (rd : RegIdx) (zimm : BitVec 5) (csr : CsrIdx) (s : State) :
    Host.Outcome State Fault Refusal :=
  csrUpdate rd csr (fun old => old ||| zimmWord zimm) s

/-- CSRRCI (R218). -/
def execCsrrci (rd : RegIdx) (zimm : BitVec 5) (csr : CsrIdx) (s : State) :
    Host.Outcome State Fault Refusal :=
  csrUpdate rd csr (fun old => old &&& ~~~(zimmWord zimm)) s

end Sys2Proof.Machine
end

