-- ==== Sys2Proof/Machine/Integer.lean ====
section
/-!
DEFINITION. The integer computational instructions, spec/40_integer.md (R130 to R154).
-/

namespace Sys2Proof.Machine

/-- LUI (R134). -/
def execLui (rd : RegIdx) (imm : Word) (s : State) : Host.Outcome State Fault Refusal :=
  writeResult rd imm s

/-- AUIPC (R135): `pc` is this instruction's own address. -/
def execAuipc (rd : RegIdx) (imm : Word) (s : State) : Host.Outcome State Fault Refusal :=
  writeResult rd (s.pc + imm) s

/-- ADDI (R136). -/
def execAddi (rd rs1 : RegIdx) (imm : Word) (s : State) : Host.Outcome State Fault Refusal :=
  writeResult rd (s.readReg rs1 + imm) s

/-- SLTI (R137). -/
def execSlti (rd rs1 : RegIdx) (imm : Word) (s : State) : Host.Outcome State Fault Refusal :=
  writeResult rd (boolWord (ltSigned (s.readReg rs1) imm)) s

/-- SLTIU (R138): the immediate is already sign-extended; the comparison is unsigned. -/
def execSltiu (rd rs1 : RegIdx) (imm : Word) (s : State) : Host.Outcome State Fault Refusal :=
  writeResult rd (boolWord (ltUnsigned (s.readReg rs1) imm)) s

/-- XORI (R139). -/
def execXori (rd rs1 : RegIdx) (imm : Word) (s : State) : Host.Outcome State Fault Refusal :=
  writeResult rd (s.readReg rs1 ^^^ imm) s

/-- ORI (R140). -/
def execOri (rd rs1 : RegIdx) (imm : Word) (s : State) : Host.Outcome State Fault Refusal :=
  writeResult rd (s.readReg rs1 ||| imm) s

/-- ANDI (R141). -/
def execAndi (rd rs1 : RegIdx) (imm : Word) (s : State) : Host.Outcome State Fault Refusal :=
  writeResult rd (s.readReg rs1 &&& imm) s

/-- SLLI (R142). -/
def execSlli (rd rs1 : RegIdx) (shamt : BitVec 5) (s : State) :
    Host.Outcome State Fault Refusal :=
  writeResult rd (shiftLeft (s.readReg rs1) shamt) s

/-- SRLI (R143). -/
def execSrli (rd rs1 : RegIdx) (shamt : BitVec 5) (s : State) :
    Host.Outcome State Fault Refusal :=
  writeResult rd (shiftRightLogical (s.readReg rs1) shamt) s

/-- SRAI (R144). -/
def execSrai (rd rs1 : RegIdx) (shamt : BitVec 5) (s : State) :
    Host.Outcome State Fault Refusal :=
  writeResult rd (shiftRightArith (s.readReg rs1) shamt) s

/-- ADD (R145). -/
def execAdd (rd rs1 rs2 : RegIdx) (s : State) : Host.Outcome State Fault Refusal :=
  writeResult rd (s.readReg rs1 + s.readReg rs2) s

/-- SUB (R146). -/
def execSub (rd rs1 rs2 : RegIdx) (s : State) : Host.Outcome State Fault Refusal :=
  writeResult rd (s.readReg rs1 - s.readReg rs2) s

/-- SLL (R147). -/
def execSll (rd rs1 rs2 : RegIdx) (s : State) : Host.Outcome State Fault Refusal :=
  writeResult rd (shiftLeft (s.readReg rs1) (regShamt rs2 s)) s

/-- SLT (R148). -/
def execSlt (rd rs1 rs2 : RegIdx) (s : State) : Host.Outcome State Fault Refusal :=
  writeResult rd (boolWord (ltSigned (s.readReg rs1) (s.readReg rs2))) s

/-- SLTU (R149). -/
def execSltu (rd rs1 rs2 : RegIdx) (s : State) : Host.Outcome State Fault Refusal :=
  writeResult rd (boolWord (ltUnsigned (s.readReg rs1) (s.readReg rs2))) s

/-- XOR (R150). -/
def execXor (rd rs1 rs2 : RegIdx) (s : State) : Host.Outcome State Fault Refusal :=
  writeResult rd (s.readReg rs1 ^^^ s.readReg rs2) s

/-- SRL (R151). -/
def execSrl (rd rs1 rs2 : RegIdx) (s : State) : Host.Outcome State Fault Refusal :=
  writeResult rd (shiftRightLogical (s.readReg rs1) (regShamt rs2 s)) s

/-- SRA (R152). -/
def execSra (rd rs1 rs2 : RegIdx) (s : State) : Host.Outcome State Fault Refusal :=
  writeResult rd (shiftRightArith (s.readReg rs1) (regShamt rs2 s)) s

/-- OR (R153). -/
def execOr (rd rs1 rs2 : RegIdx) (s : State) : Host.Outcome State Fault Refusal :=
  writeResult rd (s.readReg rs1 ||| s.readReg rs2) s

/-- AND (R154). -/
def execAnd (rd rs1 rs2 : RegIdx) (s : State) : Host.Outcome State Fault Refusal :=
  writeResult rd (s.readReg rs1 &&& s.readReg rs2) s

end Sys2Proof.Machine
end

