-- ==== Sys2Proof/Machine/LoadStore.lean ====
section
/-!
DEFINITION. Loads and stores, spec/42_load_store.md (R190 to R201).
-/

namespace Sys2Proof.Machine

/-- LB (R193). -/
def execLb (rd rs1 : RegIdx) (imm : Word) (s : State) : Host.Outcome State Fault Refusal :=
  loadTo .byte (sext 8) rd rs1 imm s

/-- LH (R194). -/
def execLh (rd rs1 : RegIdx) (imm : Word) (s : State) : Host.Outcome State Fault Refusal :=
  loadTo .half (sext 16) rd rs1 imm s

/-- LW (R195). -/
def execLw (rd rs1 : RegIdx) (imm : Word) (s : State) : Host.Outcome State Fault Refusal :=
  loadTo .word id rd rs1 imm s

/-- LBU (R196). -/
def execLbu (rd rs1 : RegIdx) (imm : Word) (s : State) : Host.Outcome State Fault Refusal :=
  loadTo .byte (zext 8) rd rs1 imm s

/-- LHU (R197). -/
def execLhu (rd rs1 : RegIdx) (imm : Word) (s : State) : Host.Outcome State Fault Refusal :=
  loadTo .half (zext 16) rd rs1 imm s

/-- SB (R198). -/
def execSb (rs1 rs2 : RegIdx) (imm : Word) (s : State) : Host.Outcome State Fault Refusal :=
  storeFrom .byte rs1 rs2 imm s

/-- SH (R199). -/
def execSh (rs1 rs2 : RegIdx) (imm : Word) (s : State) : Host.Outcome State Fault Refusal :=
  storeFrom .half rs1 rs2 imm s

/-- SW (R200). -/
def execSw (rs1 rs2 : RegIdx) (imm : Word) (s : State) : Host.Outcome State Fault Refusal :=
  storeFrom .word rs1 rs2 imm s

end Sys2Proof.Machine
end

