-- ==== Sys2Proof/Machine/System.lean ====
section
/-!
DEFINITION. System, privileged and fence instructions, spec/44_system.md (R230 to R239). Each is
accepted at all times: there is one mode and no privilege check (R230, R275).
-/

namespace Sys2Proof.Machine

/-- ECALL (R231): the environment-call exception with the instruction's own pc as its value,
whatever MSTATUS holds. -/
def execEcall (s : State) : Host.Outcome State Fault Refusal :=
  .next (routeTrap (.exception .ecallFromM s.pc s.pc) s)

/-- EBREAK (R232): the breakpoint exception with the instruction's own pc as its value. -/
def execEbreak (s : State) : Host.Outcome State Fault Refusal :=
  .next (routeTrap (.exception .breakpoint s.pc s.pc) s)

/-- URET (R233): a Return trap carrying the instruction's pc. -/
def execUret (s : State) : Host.Outcome State Fault Refusal :=
  .next (routeTrap (.ret s.pc) s)

/-- SRET (R234): identical to URET. -/
def execSret (s : State) : Host.Outcome State Fault Refusal :=
  .next (routeTrap (.ret s.pc) s)

/-- MRET (R235): a no-op on this block; it does not return (spec/90_conflicts.md C1). -/
def execMret (s : State) : Host.Outcome State Fault Refusal :=
  .next s

/-- WFI (R236): completes in its cycle and does not wait. -/
def execWfi (s : State) : Host.Outcome State Fault Refusal :=
  .next s

/-- FENCE (R237): the sets are decoded and unused. -/
def execFence (_pred _succ : BitVec 4) (s : State) : Host.Outcome State Fault Refusal :=
  .next s

/-- FENCE.I (R238). -/
def execFenceI (s : State) : Host.Outcome State Fault Refusal :=
  .next s

/-- SFENCE.VMA (R239): the operands are decoded and unused. -/
def execSfenceVma (_rs1 _rs2 : RegIdx) (s : State) : Host.Outcome State Fault Refusal :=
  .next s

end Sys2Proof.Machine
end

