-- ==== Sys2Proof/Machine/Step.lean ====
section
/-!
DEFINITION. One processor cycle (spec/60_exceptions.md R260): fetch, `next_pc <- pc + 4`, decode,
execute, trap check and routing, commit.
-/

namespace Sys2Proof.Machine

/-- One `Step` of the block, defined where `status = Running` (R260); a halted core takes no further
step and keeps the reason it halted with (R36, R281). A fetch error wins over everything, then a
decode failure (R261, R262, R272). -/
def step (s : State) : Host.Outcome State Fault Refusal :=
  match s.status with
  | .fatal r => .fault r
  | .running =>
    match busFetch s with
    | none => .fault (.fetchError s.pc)
    | some w =>
      match decode w with
      | none => .fault (.decodeError w s.pc)
      | some i => commitOutcome (exec i (beginCycle s))

/-- The state with a table row's word stored at `pc`, where `step` fetches. Nothing else changes;
where `pc` is not in the store there is no place to store it and the state is unchanged. -/
def State.withFetchWord (s : State) (nbits w : Nat) : State :=
  match memWrite s s.pc .word (tableWord nbits w) with
  | some t => t
  | none => s

end Sys2Proof.Machine
end

