-- ==== Sys2Proof/Machine/Pseudo.lean ====
section
/-!
DEFINITION. The pseudo-instructions of spec/30_encoding.md R115 and their expansions into
instructions of this block. They are assembler names, no state or behaviour of the hardware; a
target is given as its byte offset from the branch's or jump's own address (R114).
-/

namespace Sys2Proof.Pseudo

/-- `lo = sext_12(imm[11:0])` (R115). -/
def lo (imm : Word) : Word := sext 12 imm

/-- `hi = (imm - lo)[31:12]`, as the U immediate it becomes (R115). -/
def hi (imm : Word) : Word := put 12 ((imm - lo imm).extractLsb' 12 20)

def pNop : List Instr := [.addi 0 0 0]
/-- `li rd, imm` (R115): one ADDI where the constant fits 12 bits, else LUI and ADDI. -/
def pLi (rd : RegIdx) (imm : Word) : List Instr :=
  if sext 12 imm = imm then [.addi rd 0 imm] else [.lui rd (hi imm), .addi rd rd (lo imm)]
/-- `la rd, sym`, with `off = sym - pc`. -/
def pLa (rd : RegIdx) (off : Word) : List Instr := [.auipc rd (hi off), .addi rd rd (lo off)]
def pMv (rd rs : RegIdx) : List Instr := [.addi rd rs 0]
def pNot (rd rs : RegIdx) : List Instr := [.xori rd rs 0xFFFFFFFF]
def pNeg (rd rs : RegIdx) : List Instr := [.sub rd 0 rs]
def pSeqz (rd rs : RegIdx) : List Instr := [.sltiu rd rs 1]
def pSnez (rd rs : RegIdx) : List Instr := [.sltu rd 0 rs]
def pSltz (rd rs : RegIdx) : List Instr := [.slt rd rs 0]
def pSgtz (rd rs : RegIdx) : List Instr := [.slt rd 0 rs]
def pBeqz (rs : RegIdx) (off : Word) : List Instr := [.beq rs 0 off]
def pBnez (rs : RegIdx) (off : Word) : List Instr := [.bne rs 0 off]
def pBlez (rs : RegIdx) (off : Word) : List Instr := [.bge 0 rs off]
def pBgez (rs : RegIdx) (off : Word) : List Instr := [.bge rs 0 off]
def pBltz (rs : RegIdx) (off : Word) : List Instr := [.blt rs 0 off]
def pBgtz (rs : RegIdx) (off : Word) : List Instr := [.blt 0 rs off]
def pBgt (rs rt : RegIdx) (off : Word) : List Instr := [.blt rt rs off]
def pBle (rs rt : RegIdx) (off : Word) : List Instr := [.bge rt rs off]
def pBgtu (rs rt : RegIdx) (off : Word) : List Instr := [.bltu rt rs off]
def pBleu (rs rt : RegIdx) (off : Word) : List Instr := [.bgeu rt rs off]
def pJ (off : Word) : List Instr := [.jal 0 off]
def pJal (off : Word) : List Instr := [.jal 1 off]
def pJr (rs : RegIdx) : List Instr := [.jalr 0 rs 0]
def pJalr (rs : RegIdx) : List Instr := [.jalr 1 rs 0]
def pRet : List Instr := [.jalr 0 1 0]
def pCall (off : Word) : List Instr := [.auipc 1 (hi off), .jalr 1 1 (lo off)]
def pTail (off : Word) : List Instr := [.auipc 6 (hi off), .jalr 0 6 (lo off)]
def pFence : List Instr := [.fence 0b1111 0b1111]
def pCsrr (rd : RegIdx) (csr : CsrIdx) : List Instr := [.csrrs rd 0 csr]
def pCsrw (csr : CsrIdx) (rs : RegIdx) : List Instr := [.csrrw 0 rs csr]
def pCsrs (csr : CsrIdx) (rs : RegIdx) : List Instr := [.csrrs 0 rs csr]
def pCsrc (csr : CsrIdx) (rs : RegIdx) : List Instr := [.csrrc 0 rs csr]
def pCsrwi (csr : CsrIdx) (z : BitVec 5) : List Instr := [.csrrwi 0 z csr]
def pCsrsi (csr : CsrIdx) (z : BitVec 5) : List Instr := [.csrrsi 0 z csr]
def pCsrci (csr : CsrIdx) (z : BitVec 5) : List Instr := [.csrrci 0 z csr]
/-- `rdcycle rd`: plain storage on this block (R115, R276). -/
def pRdcycle (rd : RegIdx) : List Instr := [.csrrs rd 0 0xC00]
/-- `rdtime rd`: plain storage on this block. -/
def pRdtime (rd : RegIdx) : List Instr := [.csrrs rd 0 0xC01]
/-- `rdinstret rd`: plain storage on this block. -/
def pRdinstret (rd : RegIdx) : List Instr := [.csrrs rd 0 0xC02]
/-- `unimp`: on this block an ordinary CSR write of 0, not a trap (R115). -/
def pUnimp : List Instr := [.csrrw 0 0 0xC00]

end Sys2Proof.Pseudo
end

