-- ==== Sys2Proof/Machine/RunLoop.lean ====
section
/-!
DEFINITION. Reset with an image, the processor cycle as a function of the whole state (status
included), and the run loop around it: spec/70_reset_and_hazards.md R300 to R305 and
spec/60_exceptions.md R281. The loop is the host's side of the machine: its cycle budget and its
poll of the host I/O word (spec/20_memory.md R66) are not visible to a program.
-/

namespace Sys2Proof.Machine

/-- `Reset(IMAGE)` with parameters `p` (R300, R303); `none` where the image exceeds the store, so
that the load fails. -/
def resetWith (p : Params) (image : List Byte) : Option State :=
  if image.length ≤ p.memSize then
    some ((State.reset.withParams p).withMem (loadBytes [] memBase image))
  else none

/-- One cycle with its effect on `status`: a halt sets `Fatal(reason)` and writes nothing else
(R36, R281). -/
def cycle (s : State) : State :=
  match step s with
  | .next t => t
  | .fault r => s.withStatus (.fatal r)
  | .refused _ => s

/-- The host I/O word, read directly from the store: no access of the core, no side effect (R66,
R304). -/
def hostWord (s : State) : Word := readLE s.mem s.params.hostIoAddr 4

/-- How a run ends (R305). -/
inductive RunResult where
  | pass
  | fail (id : Nat)
  | exhausted (cycles : Nat)
  | fatal (reason : Fault)
  | loadFailure
  deriving DecidableEq, Repr

/-- What the poll after a completed cycle makes of the host word: 0 is still running, 1 a pass,
any other value a failure whose identifier is `v >> 1` (R66, R304). -/
def pollResult (v : Word) : Option RunResult :=
  if v = 0 then none else if v = 1 then some .pass else some (.fail (v >>> 1).toNat)

/-- The loop of R304 with `n` of its `budget` cycles left, and the state it leaves. -/
def runCycles (budget : Nat) : Nat → State → RunResult × State
  | 0, s => (.exhausted budget, s)
  | n + 1, s =>
    let t := cycle s
    match t.status with
    | .fatal r => (.fatal r, t)
    | .running =>
      match pollResult (hostWord t) with
      | some r => (r, t)
      | none => runCycles budget n t

/-- `Run(IMAGE, MAX_CYCLES)` (R304): the result, and the state it ends in where the image loads. -/
def run (p : Params) (image : List Byte) (maxCycles : Nat) : RunResult × Option State :=
  match resetWith p image with
  | none => (.loadFailure, none)
  | some s => ((runCycles maxCycles maxCycles s).1, some (runCycles maxCycles maxCycles s).2)

end Sys2Proof.Machine
end

