-- ==== Sys2Proof/Safety.lean ====
section
/-!
DEFINITION. The terms that claims about the machine use: the families of instructions, the
destination register and the memory access of an instruction, frames between two states, the
machine's invariant, and a safe run.
-/

namespace Sys2Proof.Machine

/-! ## Families (spec/40_integer.md to spec/44_system.md) -/

/-- What kind of effect an instruction has: the family files, with loads apart from stores and the
four instructions that have a trap check (R265) apart from the five no-ops. -/
inductive Family where
  | integer | control | load | store | csr | trap | noop
  deriving DecidableEq, Repr

/-- The family of an instruction. -/
def familyOf : Instr → Family
  | .lui _ _ => .integer
  | .auipc _ _ => .integer
  | .jal _ _ => .control
  | .jalr _ _ _ => .control
  | .beq _ _ _ => .control
  | .bne _ _ _ => .control
  | .blt _ _ _ => .control
  | .bge _ _ _ => .control
  | .bltu _ _ _ => .control
  | .bgeu _ _ _ => .control
  | .lb _ _ _ => .load
  | .lh _ _ _ => .load
  | .lw _ _ _ => .load
  | .lbu _ _ _ => .load
  | .lhu _ _ _ => .load
  | .sb _ _ _ => .store
  | .sh _ _ _ => .store
  | .sw _ _ _ => .store
  | .addi _ _ _ => .integer
  | .slti _ _ _ => .integer
  | .sltiu _ _ _ => .integer
  | .xori _ _ _ => .integer
  | .ori _ _ _ => .integer
  | .andi _ _ _ => .integer
  | .slli _ _ _ => .integer
  | .srli _ _ _ => .integer
  | .srai _ _ _ => .integer
  | .add _ _ _ => .integer
  | .sub _ _ _ => .integer
  | .sll _ _ _ => .integer
  | .slt _ _ _ => .integer
  | .sltu _ _ _ => .integer
  | .xor _ _ _ => .integer
  | .srl _ _ _ => .integer
  | .sra _ _ _ => .integer
  | .or _ _ _ => .integer
  | .and _ _ _ => .integer
  | .fence _ _ => .noop
  | .fenceI => .noop
  | .ecall => .trap
  | .ebreak => .trap
  | .uret => .trap
  | .sret => .trap
  | .wfi => .noop
  | .mret => .noop
  | .sfenceVma _ _ => .noop
  | .csrrw _ _ _ => .csr
  | .csrrs _ _ _ => .csr
  | .csrrc _ _ _ => .csr
  | .csrrwi _ _ _ => .csr
  | .csrrsi _ _ _ => .csr
  | .csrrci _ _ _ => .csr

/-- The destination register of an instruction that has one (R97). -/
def destOf : Instr → Option RegIdx
  | .lui rd _ => some rd
  | .auipc rd _ => some rd
  | .jal rd _ => some rd
  | .jalr rd _ _ => some rd
  | .beq _ _ _ => none
  | .bne _ _ _ => none
  | .blt _ _ _ => none
  | .bge _ _ _ => none
  | .bltu _ _ _ => none
  | .bgeu _ _ _ => none
  | .lb rd _ _ => some rd
  | .lh rd _ _ => some rd
  | .lw rd _ _ => some rd
  | .lbu rd _ _ => some rd
  | .lhu rd _ _ => some rd
  | .sb _ _ _ => none
  | .sh _ _ _ => none
  | .sw _ _ _ => none
  | .addi rd _ _ => some rd
  | .slti rd _ _ => some rd
  | .sltiu rd _ _ => some rd
  | .xori rd _ _ => some rd
  | .ori rd _ _ => some rd
  | .andi rd _ _ => some rd
  | .slli rd _ _ => some rd
  | .srli rd _ _ => some rd
  | .srai rd _ _ => some rd
  | .add rd _ _ => some rd
  | .sub rd _ _ => some rd
  | .sll rd _ _ => some rd
  | .slt rd _ _ => some rd
  | .sltu rd _ _ => some rd
  | .xor rd _ _ => some rd
  | .srl rd _ _ => some rd
  | .sra rd _ _ => some rd
  | .or rd _ _ => some rd
  | .and rd _ _ => some rd
  | .fence _ _ => none
  | .fenceI => none
  | .ecall => none
  | .ebreak => none
  | .uret => none
  | .sret => none
  | .wfi => none
  | .mret => none
  | .sfenceVma _ _ => none
  | .csrrw rd _ _ => some rd
  | .csrrs rd _ _ => some rd
  | .csrrc rd _ _ => some rd
  | .csrrwi rd _ _ => some rd
  | .csrrsi rd _ _ => some rd
  | .csrrci rd _ _ => some rd

/-- The memory access of a load or store: its base register, its displacement and its number of
bytes (R58, R190). -/
def accessOf : Instr → Option (RegIdx × Word × Nat)
  | .lui _ _ => none
  | .auipc _ _ => none
  | .jal _ _ => none
  | .jalr _ _ _ => none
  | .beq _ _ _ => none
  | .bne _ _ _ => none
  | .blt _ _ _ => none
  | .bge _ _ _ => none
  | .bltu _ _ _ => none
  | .bgeu _ _ _ => none
  | .lb _ rs1 imm => some (rs1, imm, 1)
  | .lh _ rs1 imm => some (rs1, imm, 2)
  | .lw _ rs1 imm => some (rs1, imm, 4)
  | .lbu _ rs1 imm => some (rs1, imm, 1)
  | .lhu _ rs1 imm => some (rs1, imm, 2)
  | .sb rs1 _ imm => some (rs1, imm, 1)
  | .sh rs1 _ imm => some (rs1, imm, 2)
  | .sw rs1 _ imm => some (rs1, imm, 4)
  | .addi _ _ _ => none
  | .slti _ _ _ => none
  | .sltiu _ _ _ => none
  | .xori _ _ _ => none
  | .ori _ _ _ => none
  | .andi _ _ _ => none
  | .slli _ _ _ => none
  | .srli _ _ _ => none
  | .srai _ _ _ => none
  | .add _ _ _ => none
  | .sub _ _ _ => none
  | .sll _ _ _ => none
  | .slt _ _ _ => none
  | .sltu _ _ _ => none
  | .xor _ _ _ => none
  | .srl _ _ _ => none
  | .sra _ _ _ => none
  | .or _ _ _ => none
  | .and _ _ _ => none
  | .fence _ _ => none
  | .fenceI => none
  | .ecall => none
  | .ebreak => none
  | .uret => none
  | .sret => none
  | .wfi => none
  | .mret => none
  | .sfenceVma _ _ => none
  | .csrrw _ _ _ => none
  | .csrrs _ _ _ => none
  | .csrrc _ _ _ => none
  | .csrrwi _ _ _ => none
  | .csrrsi _ _ _ => none
  | .csrrci _ _ _ => none

/-! ## Frames -/

/-- Every general register reads as before. -/
def SameRegs (s t : State) : Prop := ∀ r, t.readReg r = s.readReg r

/-- Every CSR reads as before. -/
def SameCsrs (s t : State) : Prop := ∀ a, t.readCsr a = s.readCsr a

/-- Every byte of memory reads as before. -/
def SameBytes (s t : State) : Prop := ∀ a, t.byteAt a = s.byteAt a

/-- `pc`, the run status and the parameters are as before. -/
def SameControl (s t : State) : Prop := t.pc = s.pc ∧ t.status = s.status ∧ t.params = s.params

/-- The registers after `x[rd] <- v`: x0 reads 0, `rd` reads `v` unless it is x0, every other
register reads as before. -/
def RegsAfter (s t : State) (rd : RegIdx) (v : Word) : Prop :=
  ∀ r, t.readReg r = if r = 0 then 0 else if r = rd then v else s.readReg r

/-- The CSRs after `csr[a] <- v`. -/
def CsrsAfter (s t : State) (a : CsrIdx) (v : Word) : Prop :=
  ∀ b, t.readCsr b = if b = a then v else s.readCsr b

/-- The `n` bytes at `a` are all in the store (R52). -/
def InStore (s : State) (a : Word) (n : Nat) : Prop :=
  memBase ≤ a.toNat ∧ a.toNat + n ≤ memBase + s.params.memSize

/-- An outcome with its next state, if it has one, changed by `f`. -/
def mapNext (f : State → State) : Host.Outcome State Fault Refusal → Host.Outcome State Fault Refusal
  | .next s => .next (f s)
  | .fault r => .fault r
  | .refused r => .refused r

/-- The execute steps of a list of instructions, one after the other, stopping at the first that does
not complete. -/
def execAll : List Instr → State → Host.Outcome State Fault Refusal
  | [], s => .next s
  | i :: rest, s =>
    match exec i s with
    | .next t => execAll rest t
    | .fault r => .fault r
    | .refused r => .refused r

/-! ## The invariant -/

/-- The machine's invariant: the parameters are legal (R10), the store and the CSR file are in
canonical form inside their bounds (R27, R51), and the slot of x0 holds 0 (R24). -/
abbrev State.Inv (s : State) : Prop :=
  s.params.valid = true ∧ Memory.wfIn s.params.memSize s.mem = true ∧
    CsrFile.wf s.csr = true ∧ s.x[0] = 0

/-! ## Safe runs -/

/-- The next `n` cycles all complete: none of them halts. -/
def SafeRun : Nat → State → Prop
  | 0, _ => True
  | n + 1, s => ∃ t, step s = .next t ∧ SafeRun n t

end Sys2Proof.Machine
end

