-- ==== Sys2Proof/Certificates/Slice0/Obligations.lean ====
section
/-!
DEFINITION. The statements about this machine, for the provers. Each formalises rules of spec/ and
its docstring names them. The predicates before each group say what a family's result and frame are.
-/

namespace Sys2Proof.Machine

/-! ## Shapes of results -/

/-- `i` completes, writes `v` to `rd`, and changes no other register, no CSR, no byte of memory, no
control state and not the successor address. -/
def WritesOnlyReg (i : Instr) (s : State) (rd : RegIdx) (v : Word) : Prop :=
  ∃ t, exec i s = .next t ∧ RegsAfter s t rd v ∧ SameCsrs s t ∧ SameBytes s t ∧ SameControl s t ∧
    t.nextPc = s.nextPc

/-- As `WritesOnlyReg`, the value given bit by bit. -/
def WritesOnlyRegBits (i : Instr) (s : State) (rd : RegIdx) (bit : Nat → Bool) : Prop :=
  ∃ v, WritesOnlyReg i s rd v ∧ ∀ j < 32, v.getLsbD j = bit j

/-- `i` completes, links the successor address in `rd`, sets the successor address to `target`, and
changes nothing else. -/
def JumpsTo (i : Instr) (s : State) (rd : RegIdx) (target : Word) : Prop :=
  ∃ t, exec i s = .next t ∧ RegsAfter s t rd s.nextPc ∧ SameCsrs s t ∧ SameBytes s t ∧
    SameControl s t ∧ t.nextPc = target

/-- `i` completes, its successor address is `pc + imm` where `cond` holds and the default one where
it does not, and nothing else changes. -/
def BranchesWhen (i : Instr) (s : State) (imm : Word) (cond : Prop) : Prop :=
  ∃ t, exec i s = .next t ∧ SameRegs s t ∧ SameCsrs s t ∧ SameBytes s t ∧ SameControl s t ∧
    (cond → t.nextPc = BitVec.ofNat 32 (s.pc.toNat + imm.toNat)) ∧ (¬cond → t.nextPc = s.nextPc)

/-- Where the `n` bytes at `ea` are in the store, `i` completes and writes to `rd` the value whose
bit `8k + j` is bit `j` of the byte at `ea + k`, extended by copies of its top bit or by 0, and
changes nothing else; where they are not, it halts. -/
def LoadsBytes (i : Instr) (s : State) (rd : RegIdx) (ea : Word) (n : Nat) (signed : Bool) : Prop :=
  (InStore s ea n → WritesOnlyRegBits i s rd (fun j =>
    if j < 8 * n then (s.byteAt (ea.toNat + j / 8)).getLsbD (j % 8)
    else signed && (s.byteAt (ea.toNat + (n - 1))).getLsbD 7)) ∧
  (¬InStore s ea n → exec i s = .fault (.loadError ea s.pc))

/-- Where the `n` bytes at `ea` are in the store, `i` completes, byte `k` of them becomes byte `k`
of `v`, and every other byte and everything else reads as before; where they are not, it halts. -/
def StoresBytes (i : Instr) (s : State) (ea : Word) (n : Nat) (v : Word) : Prop :=
  (¬InStore s ea n → exec i s = .fault (.storeError ea s.pc)) ∧
  (InStore s ea n → ∃ t, exec i s = .next t ∧ SameRegs s t ∧ SameCsrs s t ∧ SameControl s t ∧
    t.nextPc = s.nextPc ∧
    ∀ a, t.byteAt a =
      if ea.toNat ≤ a ∧ a < ea.toNat + n then BitVec.ofNat 8 (v.toNat / 256 ^ (a - ea.toNat))
      else s.byteAt a)

/-- `i` completes, writes the old value of `csr[a]` to `rd` and a new value to `csr[a]`, whose bit
`j` is `bit j`, and changes nothing else. -/
def UpdatesCsr (i : Instr) (s : State) (rd : RegIdx) (a : CsrIdx) (bit : Nat → Bool) : Prop :=
  ∃ t v, exec i s = .next t ∧ RegsAfter s t rd (s.readCsr a) ∧ CsrsAfter s t a v ∧ SameBytes s t ∧
    SameControl s t ∧ t.nextPc = s.nextPc ∧ ∀ j < 32, v.getLsbD j = bit j

/-- `t` is `s` after an exception with this cause code, pc and value (R267): MCAUSE, MEPC and MTVAL
hold them, MSTATUS.MPIE is the old MIE, MIE 0, MPP 3, the successor is at MTVEC with its low two bits
cleared; no register, byte, control state, other CSR or other MSTATUS bit changes. -/
def AfterException (s t : State) (code p v : Word) : Prop :=
  SameRegs s t ∧ SameBytes s t ∧ SameControl s t ∧
    t.nextPc = s.readCsr 0x305 &&& 0xFFFFFFFC ∧
    t.readCsr 0x341 = p ∧ t.readCsr 0x342 = code ∧ t.readCsr 0x343 = v ∧
    (∀ j < 32, (t.readCsr 0x300).getLsbD j =
      if j = 3 then false else if j = 7 then (s.readCsr 0x300).getLsbD 3
      else if j = 11 ∨ j = 12 then true else (s.readCsr 0x300).getLsbD j) ∧
    ∀ a, a ≠ 0x300 → a ≠ 0x341 → a ≠ 0x342 → a ≠ 0x343 → t.readCsr a = s.readCsr a

/-- `i` completes by taking an exception with this cause code, its own pc as the pc and the value. -/
def TakesException (i : Instr) (s : State) (code : Word) : Prop :=
  ∃ t, exec i s = .next t ∧ AfterException s t code s.pc s.pc

/-- `i` completes by a trap return: MSTATUS.MIE the old MPIE, MPP 0, the successor at MEPC; no
register, byte, control state, other CSR or other MSTATUS bit changes. -/
def ReturnsFromTrap (i : Instr) (s : State) : Prop :=
  ∃ t, exec i s = .next t ∧ SameRegs s t ∧ SameBytes s t ∧ SameControl s t ∧
    t.nextPc = s.readCsr 0x341 ∧
    (∀ j < 32, (t.readCsr 0x300).getLsbD j =
      if j = 3 then (s.readCsr 0x300).getLsbD 7
      else if j = 11 ∨ j = 12 then false else (s.readCsr 0x300).getLsbD j) ∧
    ∀ a, a ≠ 0x300 → t.readCsr a = s.readCsr a

/-- The halt of a load or store whose access at `ea` is out of range. -/
def accessFault (i : Instr) (ea pc : Word) : Fault :=
  if familyOf i = .store then .storeError ea pc else .loadError ea pc

/-- The operands of a decoded instruction are the fields of its word (R96, R97). -/
def OperandsOf (w : Word) : Instr → Prop
  | .lui rd imm | .auipc rd imm => rd = w.extractLsb' 7 5 ∧ imm = immU w
  | .jal rd imm => rd = w.extractLsb' 7 5 ∧ imm = immJ w
  | .jalr rd rs1 imm | .lb rd rs1 imm | .lh rd rs1 imm | .lw rd rs1 imm | .lbu rd rs1 imm
  | .lhu rd rs1 imm | .addi rd rs1 imm | .slti rd rs1 imm | .sltiu rd rs1 imm | .xori rd rs1 imm
  | .ori rd rs1 imm | .andi rd rs1 imm =>
    rd = w.extractLsb' 7 5 ∧ rs1 = w.extractLsb' 15 5 ∧ imm = immI w
  | .beq rs1 rs2 imm | .bne rs1 rs2 imm | .blt rs1 rs2 imm | .bge rs1 rs2 imm | .bltu rs1 rs2 imm
  | .bgeu rs1 rs2 imm => rs1 = w.extractLsb' 15 5 ∧ rs2 = w.extractLsb' 20 5 ∧ imm = immB w
  | .sb rs1 rs2 imm | .sh rs1 rs2 imm | .sw rs1 rs2 imm =>
    rs1 = w.extractLsb' 15 5 ∧ rs2 = w.extractLsb' 20 5 ∧ imm = immS w
  | .slli rd rs1 shamt | .srli rd rs1 shamt | .srai rd rs1 shamt =>
    rd = w.extractLsb' 7 5 ∧ rs1 = w.extractLsb' 15 5 ∧ shamt = w.extractLsb' 20 5
  | .add rd rs1 rs2 | .sub rd rs1 rs2 | .sll rd rs1 rs2 | .slt rd rs1 rs2 | .sltu rd rs1 rs2
  | .xor rd rs1 rs2 | .srl rd rs1 rs2 | .sra rd rs1 rs2 | .or rd rs1 rs2 | .and rd rs1 rs2 =>
    rd = w.extractLsb' 7 5 ∧ rs1 = w.extractLsb' 15 5 ∧ rs2 = w.extractLsb' 20 5
  | .fence pred succ => pred = w.extractLsb' 24 4 ∧ succ = w.extractLsb' 20 4
  | .sfenceVma rs1 rs2 => rs1 = w.extractLsb' 15 5 ∧ rs2 = w.extractLsb' 20 5
  | .csrrw rd src csr | .csrrs rd src csr | .csrrc rd src csr | .csrrwi rd src csr
  | .csrrsi rd src csr | .csrrci rd src csr =>
    rd = w.extractLsb' 7 5 ∧ src = w.extractLsb' 15 5 ∧ csr = w.extractLsb' 20 12
  | .fenceI | .ecall | .ebreak | .uret | .sret | .wfi | .mret => True

/-- The mask of the bits that select or parametrise an instruction whose row leaves some uncompared
and unkept (R105, R106, R108); all ones for every other instruction. -/
def keptBits : Instr → Word
  | .fence _ _ => 0x0FF0707F
  | .fenceI => 0x0000707F
  | .sfenceVma _ _ => 0xFFFFF07F
  | .ecall | .ebreak | .uret | .sret | .wfi | .mret => 0xFFF0707F
  | _ => 0xFFFFFFFF

/-- The first `k` cycles from `s` all complete, with the host word 0 after each (R304). -/
def QuietFor (k : Nat) (s : State) : Prop :=
  ∀ j < k, (cycle^[j + 1] s).status = .running ∧ hostWord (cycle^[j + 1] s) = 0

end Sys2Proof.Machine

open Sys2Proof Sys2Proof.Machine

/-! ## Encoding -/

/-- Decode of encode is the identity on every well-formed instruction, every operand at every value
the encoding admits (R82 to R97). -/
def Obligations.DecodeOfEncodeIsTheInstruction : Prop :=
  ∀ i : Instr, i.wf = true → decode (encode i) = some i

/-- R110: the dispatch of R99 and the opcode table's mask and match pairs are the same decoder, and
no word is accepted by two rows. -/
def Obligations.DecodeAgreesWithOpcodeTable : Prop :=
  ∀ w : Word,
    (decode w).map Instr.mnemonic = (opcodeTable.find? (·.accepts w)).map TableRow.mnemonic ∧
    opcodeTable.Pairwise (fun r q => ¬(r.accepts w = true ∧ q.accepts w = true))

/-- The other direction of the round trip: what is decoded is well-formed, and encoding it gives back
the word on every bit the decoder compares or keeps (R97, R105 to R108). -/
def Obligations.EncodeOfDecodeAgreesOnKeptBits : Prop :=
  ∀ w i, decode w = some i → i.wf = true ∧ encode i &&& keptBits i = w &&& keptBits i

/-- R97: each decoded variant carries the fields of its word. -/
def Obligations.DecodedOperandsAreTheWordFields : Prop :=
  ∀ w i, decode w = some i → OperandsOf w i

/-- R91, R92: the I and S immediates bit by bit, and their range. -/
def Obligations.ImmediatesIAndSAreSignExtendedFields : Prop :=
  ∀ w : Word,
    (∀ j < 32, (immI w).getLsbD j = if j < 11 then w.getLsbD (j + 20) else w.getLsbD 31) ∧
    (∀ j < 32, (immS w).getLsbD j =
      if j < 5 then w.getLsbD (j + 7) else if j < 11 then w.getLsbD (j + 20) else w.getLsbD 31) ∧
    -2048 ≤ (immI w).toInt ∧ (immI w).toInt ≤ 2047 ∧
    -2048 ≤ (immS w).toInt ∧ (immS w).toInt ≤ 2047 ∧
    (w.extractLsb' 20 12 = BitVec.ofInt 12 (-1) → immI w = 0xFFFFFFFF) ∧
    (w.extractLsb' 20 12 = 2047 → immI w = 0x000007FF)

/-- R93: the B immediate bit by bit, even, and in range. -/
def Obligations.ImmediateBIsAnEvenByteOffset : Prop :=
  ∀ w : Word,
    (∀ j < 32, (immB w).getLsbD j =
      if j = 0 then false else if j < 5 then w.getLsbD (j + 7)
      else if j < 11 then w.getLsbD (j + 20) else if j = 11 then w.getLsbD 7 else w.getLsbD 31) ∧
    -4096 ≤ (immB w).toInt ∧ (immB w).toInt ≤ 4094 ∧ (immB w).toInt % 2 = 0

/-- R94, R95: the U immediate, and the J immediate bit by bit, even, and in range. -/
def Obligations.ImmediatesUAndJFollowTheirFormats : Prop :=
  ∀ w : Word,
    immU w = w &&& 0xFFFFF000 ∧
    (∀ j < 32, (immJ w).getLsbD j =
      if j = 0 then false else if j < 11 then w.getLsbD (j + 20)
      else if j = 11 then w.getLsbD 20 else if j < 20 then w.getLsbD j else w.getLsbD 31) ∧
    -1048576 ≤ (immJ w).toInt ∧ (immJ w).toInt ≤ 1048574 ∧ (immJ w).toInt % 2 = 0

/-- R113: the spec's own words and their variants. -/
def Obligations.SpecDecodeExamples : Prop :=
  decode 0x00000013 = some (.addi 0 0 0) ∧
  decode 0x00100093 = some (.addi 1 0 1) ∧
  decode 0xFFF00093 = some (.addi 1 0 0xFFFFFFFF) ∧
  decode 0x7FF00093 = some (.addi 1 0 0x000007FF) ∧
  decode 0x123452B7 = some (.lui 5 0x12345000) ∧
  decode 0x41F25193 = some (.srai 3 4 31) ∧
  decode 0x00102023 = some (.sw 0 1 0) ∧
  decode 0x00000463 = some (.beq 0 0 8) ∧
  decode 0xFE001EE3 = some (.bne 0 0 0xFFFFFFFC) ∧
  decode 0x001000EF = some (.jal 1 0x00000800) ∧
  decode 0xFFFFF06F = some (.jal 0 0xFFFFFFFE) ∧
  decode 0x30529073 = some (.csrrw 0 5 0x305) ∧
  decode 0x0FF0000F = some (.fence 0b1111 0b1111) ∧
  decode 0x0000100F = some .fenceI ∧
  decode 0x00000073 = some .ecall ∧
  decode 0x00100073 = some .ebreak ∧
  decode 0x00200073 = some .uret ∧
  decode 0x10200073 = some .sret ∧
  decode 0x10500073 = some .wfi ∧
  decode 0x30200073 = some .mret ∧
  decode 0x12000073 = some (.sfenceVma 0 0)

/-- The decoder on bytes: an instruction is the four little-endian bytes of its word, and a word that
decodes to nothing is rejected by name (R80, R109). -/
def Obligations.DecodeBytesReadsOneLittleEndianWord : Prop :=
  ∀ (w : Word) (rest : List Byte),
    (∀ i, decode w = some i → decodeBytes (bytesOfWord w ++ rest) = .instr i rest) ∧
    (decode w = none → decodeBytes (bytesOfWord w ++ rest) = .reject (.decodeError w))

/-! ## The cycle -/

/-- R260: a running core whose fetched word decodes to `i` runs `i` on the state with the default
successor set, and commits `next_pc` to `pc` if it completed; a halt ends the cycle with no commit. -/
def Obligations.StepRunsTheDecodedInstruction : Prop :=
  ∀ s w i, s.status = .running → busFetch s = some w → decode w = some i →
    (∀ t, exec i { s with nextPc := s.pc + 4 } = .next t →
      step s = .next { t with pc := t.nextPc }) ∧
    (∀ r, exec i { s with nextPc := s.pc + 4 } = .fault r → step s = .fault r)

/-- R53, R55: a fetch from the store reads the little-endian word at `pc`, whatever `pc`'s alignment. -/
def Obligations.FetchReadsTheLittleEndianWordAtPc : Prop :=
  ∀ s : State, InStore s s.pc 4 → ∃ w, busFetch s = some w ∧
    w.toNat = (s.byteAt s.pc.toNat).toNat + 256 * (s.byteAt (s.pc.toNat + 1)).toNat +
      65536 * (s.byteAt (s.pc.toNat + 2)).toNat + 16777216 * (s.byteAt (s.pc.toNat + 3)).toNat

/-- R261: a fetch that is not in range halts the core, and nothing else changes. -/
def Obligations.FetchOutsideTheStoreHalts : Prop :=
  ∀ s : State, s.status = .running → ¬InStore s s.pc 4 →
    step s = .fault (.fetchError s.pc) ∧ cycle s = { s with status := .fatal (.fetchError s.pc) }

/-- R262, R281: a word that matches no variant halts the core; no register, CSR or byte is written and
`pc` still holds its address. That `next_pc` too is as before the cycle is the model's reading of R281
over the order of R260 (log entry 3, DEDUCED). -/
def Obligations.UndecodableWordHalts : Prop :=
  ∀ s w, s.status = .running → busFetch s = some w → decode w = none →
    step s = .fault (.decodeError w s.pc) ∧
    cycle s = { s with status := .fatal (.decodeError w s.pc) }

/-- R263, R281: a load or store whose access is out of range halts the core; it writes nothing and `pc`
is not committed. That `next_pc` too is as before the cycle is the model's reading of R281 over the
order of R260 (log entry 3, DEDUCED). -/
def Obligations.OutOfRangeAccessHaltsTheCycle : Prop :=
  ∀ s w i base imm n, s.status = .running → busFetch s = some w → decode w = some i →
    accessOf i = some (base, imm, n) → ¬InStore s (s.readReg base + imm) n →
    cycle s = { s with status := .fatal (accessFault i (s.readReg base + imm) s.pc) }

/-- R281: a fatal halt is final. The halting cycle sets the status and writes nothing else, and no
later cycle changes anything. That the halting cycle leaves `next_pc` as it was is the model's reading
(log entry 3, DEDUCED); that the step of a core halted already answers its reason is the model's
choice (log entry 7, DESIGN CHOICE). -/
def Obligations.FatalHaltIsFinal : Prop :=
  ∀ s r, step s = .fault r → ∀ n, cycle^[n + 1] s = { s with status := .fatal r }

/-- No step is refused: every variant has its meaning (R2). -/
def Obligations.StepNeverRefuses : Prop :=
  ∀ s r, step s ≠ .refused r

/-- Every reason a step can stop with, and when: on a running core those of R261 to R263, in the order
of R272 (R36, R52). The first case, the step of a core halted already, is the model's choice, since
R260 defines no step there (log entry 7, DESIGN CHOICE). -/
def Obligations.StepStopsOnlyForTheFourReasons : Prop :=
  ∀ s r, step s = .fault r →
    s.status = .fatal r ∨
    (r = .fetchError s.pc ∧ ¬InStore s s.pc 4) ∨
    (∃ w, busFetch s = some w ∧ decode w = none ∧ r = .decodeError w s.pc) ∨
    ∃ w i base imm n, busFetch s = some w ∧ decode w = some i ∧ accessOf i = some (base, imm, n) ∧
      ¬InStore s (s.readReg base + imm) n ∧ r = accessFault i (s.readReg base + imm) s.pc

/-- The invariant holds after every step from every state that meets it: the parameters stay legal,
the store and the CSR file stay in canonical form inside their bounds, and x0's slot stays 0. -/
def Obligations.StepKeepsTheInvariant : Prop :=
  ∀ s t : State, s.Inv → step s = .next t → t.Inv

/-- The reset state meets the invariant; its parameter values are the model's choice (log entry 1). -/
def Obligations.ResetMeetsTheInvariant : Prop :=
  State.reset.Inv

/-- Every state that cycles lead to from a reset with any image meets the invariant. -/
def Obligations.RunsFromResetMeetTheInvariant : Prop :=
  ∀ p image s, p.valid = true → resetWith p image = some s → ∀ n, (cycle^[n] s).Inv

/-- `n` cycles complete exactly when the core is still running after them (R36, R281). -/
def Obligations.SafeRunIsStillRunning : Prop :=
  ∀ s : State, s.status = .running → ∀ n, SafeRun n s ↔ (cycle^[n] s).status = .running

/-! ## Reset and the run loop -/

/-- R300, R303: what reset with an image leaves, for every machine and every image that fits. The byte
clause also says that an address past the end of the store, where R300 gives no byte, reads 0, which is
the model's value of an unlisted byte (log entry 2, DEDUCED). -/
def Obligations.ResetLeavesTheStatedState : Prop :=
  ∀ (p : Params) (image : List Byte), image.length ≤ p.memSize →
    ∃ s, resetWith p image = some s ∧ s.pc = 0x80000000 ∧ s.nextPc = 0x80000000 ∧
      (∀ r, s.readReg r = 0) ∧ (∀ a, s.readCsr a = 0) ∧ s.status = .running ∧ s.params = p ∧
      ∀ k, s.byteAt (0x80000000 + k) = image.getD k 0

/-- The reset state is reset with the empty image and the example parameters; those parameter values
are the model's choice (log entry 1). -/
def Obligations.ResetStateIsResetWithTheEmptyImage : Prop :=
  resetWith exampleParams [] = some State.reset

/-- R304: the run loop. Let the first `k` cycles complete with the host word 0 after each. If cycle
`k + 1` halts, the run ends with its reason; if it leaves the host word 1, with a pass; if any other
nonzero word, with a failure whose identifier is half of it; if the budget is `k`, with exhaustion.
An image larger than the store is a load failure and no cycle runs. The host word is the
little-endian word at the host address. -/
def Obligations.RunEndsAsTheFirstPollSays : Prop :=
  (∀ s : State, (hostWord s).toNat = (s.byteAt s.params.hostIoAddr).toNat +
    256 * (s.byteAt (s.params.hostIoAddr + 1)).toNat +
    65536 * (s.byteAt (s.params.hostIoAddr + 2)).toNat +
    16777216 * (s.byteAt (s.params.hostIoAddr + 3)).toNat) ∧
  ∀ (p : Params) (image : List Byte) (n : Nat),
    (p.memSize < image.length → run p image n = (.loadFailure, none)) ∧
    ∀ s, resetWith p image = some s →
      (∀ k < n, QuietFor k s →
        (∀ r, (cycle^[k + 1] s).status = .fatal r →
          run p image n = (.fatal r, some (cycle^[k + 1] s))) ∧
        ((cycle^[k + 1] s).status = .running →
          (hostWord (cycle^[k + 1] s) = 1 → run p image n = (.pass, some (cycle^[k + 1] s))) ∧
          (hostWord (cycle^[k + 1] s) ≠ 0 → hostWord (cycle^[k + 1] s) ≠ 1 →
            run p image n =
              (.fail ((hostWord (cycle^[k + 1] s)).toNat / 2), some (cycle^[k + 1] s))))) ∧
      (QuietFor n s → run p image n = (.exhausted n, some (cycle^[n] s)))

/-- R59, R66, R201: the host I/O word is an ordinary stored word. No step depends on its address. -/
def Obligations.HostAddressDoesNotAffectAStep : Prop :=
  ∀ (s : State) (h : Nat),
    step { s with params := { s.params with hostIoAddr := h } } =
      mapNext (fun t => { t with params := { t.params with hostIoAddr := h } }) (step s)

/-! ## Rules of the whole machine -/

/-- R24: reads of index 0 yield 0 and writes to it are discarded, at the accessors and for every
instruction whose destination is x0. -/
def Obligations.RegisterZeroIsHardwired : Prop :=
  (∀ (s : State) (ws : List (RegIdx × Word)),
    (ws.foldl (fun u w => u.writeReg w.1 w.2) s).readReg 0 = 0) ∧
  (∀ (s : State) (v : Word), s.writeReg 0 v = s) ∧
  ∀ i s t, destOf i = some 0 → exec i s = .next t → SameRegs s t

/-- No instruction changes a register other than its destination; branches, stores, traps and no-ops
change none (R130, R172, R176, R192, R210, R230). -/
def Obligations.OnlyTheDestinationRegisterChanges : Prop :=
  ∀ i s t, exec i s = .next t → ∀ r, destOf i ≠ some r → t.readReg r = s.readReg r

/-- Only CSR instructions and traps read or write a CSR: any other instruction behaves the same on any
CSR file and leaves it alone. Every CSR instruction completes, at any address and in any state (R28,
R211, R212). -/
def Obligations.OnlyCsrInstructionsAndTrapsUseCsrs : Prop :=
  (∀ i s c, familyOf i ≠ .csr → familyOf i ≠ .trap →
    exec i (s.withCsrs c) = mapNext (fun t => t.withCsrs c) (exec i s)) ∧
  ∀ i s, familyOf i = .csr → ∃ t, exec i s = .next t

/-- No instruction but loads and stores accesses memory: any other behaves the same on any memory
and leaves it alone; a load changes no byte (R58). -/
def Obligations.OnlyLoadsAndStoresUseMemory : Prop :=
  (∀ i s m, familyOf i ≠ .load → familyOf i ≠ .store →
    exec i (s.withMem m) = mapNext (fun t => t.withMem m) (exec i s)) ∧
  ∀ i s t, familyOf i = .load → exec i s = .next t → SameBytes s t

/-- No instruction writes `pc`, the status or the parameters; `pc` changes by the commit alone (R20,
R281). -/
def Obligations.ExecKeepsPcStatusAndParameters : Prop :=
  ∀ i s t, exec i s = .next t → SameControl s t

/-- An instruction that is no control transfer and makes no trap is followed by the one at `pc + 4`,
modulo 2^32, and after every step `next_pc` equals `pc` (R21, R22, R130, R192, R211). -/
def Obligations.SequentialInstructionsAdvanceByFour : Prop :=
  ∀ s t, step s = .next t → t.nextPc = t.pc ∧
    ∀ w i, busFetch s = some w → decode w = some i → familyOf i ≠ .control → familyOf i ≠ .trap →
      t.pc = BitVec.ofNat 32 (s.pc.toNat + 4)

/-- MCAUSE changes only by a CSR instruction, ECALL or EBREAK, and the two write codes 11 and 3 (R265,
R266). -/
def Obligations.OnlyEcallAndEbreakRaiseExceptions : Prop :=
  ∀ i s t, exec i s = .next t → familyOf i ≠ .csr →
    t.readCsr 0x342 = s.readCsr 0x342 ∨ (i = .ecall ∧ t.readCsr 0x342 = 11) ∨
      (i = .ebreak ∧ t.readCsr 0x342 = 3)

/-- R191: an instruction completes unless it is a load or store whose bytes are not all in the store,
and then it halts with the effective address and the pc. -/
def Obligations.OnlyOutOfRangeAccessesFail : Prop :=
  ∀ (i : Instr) (s : State),
    (accessOf i = none → ∃ t, exec i s = .next t) ∧
    ∀ base imm n, accessOf i = some (base, imm, n) →
      (InStore s (s.readReg base + imm) n → ∃ t, exec i s = .next t) ∧
      (¬InStore s (s.readReg base + imm) n →
        exec i s = .fault (accessFault i (s.readReg base + imm) s.pc))

/-- R32: the MSTATUS accessors read their field, get what was set and leave every other bit alone. -/
def Obligations.MstatusAccessorsTouchOnlyTheirField : Prop :=
  ∀ (m : Word) (b : BitVec 1) (p : BitVec 2),
    (getMie m).toNat = m.toNat / 8 % 2 ∧ (getMpie m).toNat = m.toNat / 128 % 2 ∧
    (getMpp m).toNat = m.toNat / 2048 % 4 ∧
    getMie (setMie m b) = b ∧ getMpie (setMpie m b) = b ∧ getMpp (setMpp m p) = p ∧
    (∀ j < 32, j ≠ 3 → (setMie m b).getLsbD j = m.getLsbD j) ∧
    (∀ j < 32, j ≠ 7 → (setMpie m b).getLsbD j = m.getLsbD j) ∧
    ∀ j < 32, j ≠ 11 → j ≠ 12 → (setMpp m p).getLsbD j = m.getLsbD j

/-! ## Results, with their frames: integer -/

/-- R134, R135: LUI and AUIPC. -/
def Obligations.LuiAndAuipcResults : Prop :=
  ∀ (s : State) (rd : RegIdx) (imm : Word),
    WritesOnlyReg (.lui rd imm) s rd imm ∧
    ((Instr.lui rd imm).wf = true → ∀ j < 12, imm.getLsbD j = false) ∧
    WritesOnlyReg (.auipc rd imm) s rd (BitVec.ofNat 32 (s.pc.toNat + imm.toNat))

/-- R131, R136, R145, R146: ADDI, ADD and SUB give the low 32 bits of the exact result; ADD commutes. -/
def Obligations.AddAndSubResults : Prop :=
  ∀ (s : State) (rd rs1 rs2 : RegIdx) (imm : Word),
    WritesOnlyReg (.addi rd rs1 imm) s rd
      (BitVec.ofInt 32 (signed (s.readReg rs1) + signed imm)) ∧
    WritesOnlyReg (.add rd rs1 rs2) s rd
      (BitVec.ofInt 32 (signed (s.readReg rs1) + signed (s.readReg rs2))) ∧
    WritesOnlyReg (.sub rd rs1 rs2) s rd
      (BitVec.ofInt 32 (signed (s.readReg rs1) - signed (s.readReg rs2))) ∧
    exec (.add rd rs1 rs2) s = exec (.add rd rs2 rs1) s

/-- R139 to R141, R150, R153, R154: the bitwise operations, bit by bit. -/
def Obligations.LogicResults : Prop :=
  ∀ (s : State) (rd rs1 rs2 : RegIdx) (imm : Word),
    WritesOnlyRegBits (.xori rd rs1 imm) s rd
      (fun j => (s.readReg rs1).getLsbD j != imm.getLsbD j) ∧
    WritesOnlyRegBits (.ori rd rs1 imm) s rd
      (fun j => (s.readReg rs1).getLsbD j || imm.getLsbD j) ∧
    WritesOnlyRegBits (.andi rd rs1 imm) s rd
      (fun j => (s.readReg rs1).getLsbD j && imm.getLsbD j) ∧
    WritesOnlyRegBits (.xor rd rs1 rs2) s rd
      (fun j => (s.readReg rs1).getLsbD j != (s.readReg rs2).getLsbD j) ∧
    WritesOnlyRegBits (.or rd rs1 rs2) s rd
      (fun j => (s.readReg rs1).getLsbD j || (s.readReg rs2).getLsbD j) ∧
    WritesOnlyRegBits (.and rd rs1 rs2) s rd
      (fun j => (s.readReg rs1).getLsbD j && (s.readReg rs2).getLsbD j)

/-- R137, R138, R148, R149: the comparisons give 1 or 0, signed or unsigned. -/
def Obligations.CompareResults : Prop :=
  ∀ (s : State) (rd rs1 rs2 : RegIdx) (imm : Word),
    WritesOnlyReg (.slti rd rs1 imm) s rd (if signed (s.readReg rs1) < signed imm then 1 else 0) ∧
    WritesOnlyReg (.sltiu rd rs1 imm) s rd
      (if unsigned (s.readReg rs1) < unsigned imm then 1 else 0) ∧
    WritesOnlyReg (.slt rd rs1 rs2) s rd
      (if signed (s.readReg rs1) < signed (s.readReg rs2) then 1 else 0) ∧
    WritesOnlyReg (.sltu rd rs1 rs2) s rd
      (if unsigned (s.readReg rs1) < unsigned (s.readReg rs2) then 1 else 0)

/-- R132, R142 to R144, R147, R151, R152: the shifts, bit by bit; a register amount counts modulo
32. -/
def Obligations.ShiftResults : Prop :=
  ∀ (s : State) (rd rs1 rs2 : RegIdx) (shamt : BitVec 5),
    let x := s.readReg rs1
    let n := (s.readReg rs2).toNat % 32
    WritesOnlyRegBits (.slli rd rs1 shamt) s rd
      (fun j => decide (shamt.toNat ≤ j) && x.getLsbD (j - shamt.toNat)) ∧
    WritesOnlyRegBits (.srli rd rs1 shamt) s rd
      (fun j => decide (j + shamt.toNat < 32) && x.getLsbD (j + shamt.toNat)) ∧
    WritesOnlyRegBits (.srai rd rs1 shamt) s rd
      (fun j => if j + shamt.toNat < 32 then x.getLsbD (j + shamt.toNat) else x.getLsbD 31) ∧
    WritesOnlyRegBits (.sll rd rs1 rs2) s rd (fun j => decide (n ≤ j) && x.getLsbD (j - n)) ∧
    WritesOnlyRegBits (.srl rd rs1 rs2) s rd
      (fun j => decide (j + n < 32) && x.getLsbD (j + n)) ∧
    WritesOnlyRegBits (.sra rd rs1 rs2) s rd
      (fun j => if j + n < 32 then x.getLsbD (j + n) else x.getLsbD 31)

/-! ## Results: control transfer -/

/-- R174, R175: JAL and JALR link the successor address, which the cycle has set to `pc + 4`; JALR's
target keeps bit 0 and uses the old `x[rs1]` even where `rd = rs1`. -/
def Obligations.JumpResults : Prop :=
  ∀ (s : State) (rd rs1 : RegIdx) (imm : Word),
    JumpsTo (.jal rd imm) s rd (BitVec.ofNat 32 (s.pc.toNat + imm.toNat)) ∧
    JumpsTo (.jalr rd rs1 imm) s rd (BitVec.ofNat 32 ((s.readReg rs1).toNat + imm.toNat)) ∧
    (beginCycle s).nextPc = BitVec.ofNat 32 (s.pc.toNat + 4)

/-- R176 to R182: the branches. -/
def Obligations.BranchResults : Prop :=
  ∀ (s : State) (rs1 rs2 : RegIdx) (imm : Word),
    BranchesWhen (.beq rs1 rs2 imm) s imm (s.readReg rs1 = s.readReg rs2) ∧
    BranchesWhen (.bne rs1 rs2 imm) s imm (s.readReg rs1 ≠ s.readReg rs2) ∧
    BranchesWhen (.blt rs1 rs2 imm) s imm (signed (s.readReg rs1) < signed (s.readReg rs2)) ∧
    BranchesWhen (.bge rs1 rs2 imm) s imm (signed (s.readReg rs1) ≥ signed (s.readReg rs2)) ∧
    BranchesWhen (.bltu rs1 rs2 imm) s imm (unsigned (s.readReg rs1) < unsigned (s.readReg rs2)) ∧
    BranchesWhen (.bgeu rs1 rs2 imm) s imm (unsigned (s.readReg rs1) ≥ unsigned (s.readReg rs2))

/-! ## Results: memory -/

/-- R193 to R197: the loads, at any alignment, with their frames. -/
def Obligations.LoadResults : Prop :=
  ∀ (s : State) (rd rs1 : RegIdx) (imm : Word),
    LoadsBytes (.lb rd rs1 imm) s rd (s.readReg rs1 + imm) 1 true ∧
    LoadsBytes (.lh rd rs1 imm) s rd (s.readReg rs1 + imm) 2 true ∧
    LoadsBytes (.lw rd rs1 imm) s rd (s.readReg rs1 + imm) 4 false ∧
    LoadsBytes (.lbu rd rs1 imm) s rd (s.readReg rs1 + imm) 1 false ∧
    LoadsBytes (.lhu rd rs1 imm) s rd (s.readReg rs1 + imm) 2 false

/-- R198 to R200: the stores, at any alignment, with their frames. -/
def Obligations.StoreResults : Prop :=
  ∀ (s : State) (rs1 rs2 : RegIdx) (imm : Word),
    StoresBytes (.sb rs1 rs2 imm) s (s.readReg rs1 + imm) 1 (s.readReg rs2) ∧
    StoresBytes (.sh rs1 rs2 imm) s (s.readReg rs1 + imm) 2 (s.readReg rs2) ∧
    StoresBytes (.sw rs1 rs2 imm) s (s.readReg rs1 + imm) 4 (s.readReg rs2)

/-- A load from where a store of the same width has just been gets the stored bytes (R62, R200). -/
def Obligations.StoreThenLoadReturnsTheStoredBytes : Prop :=
  ∀ (s t : State) (rs1 rs2 rd : RegIdx) (imm : Word),
    (exec (.sw rs1 rs2 imm) s = .next t → ∃ u, exec (.lw rd rs1 imm) t = .next u ∧
      u.readReg rd = if rd = 0 then 0 else s.readReg rs2) ∧
    (exec (.sh rs1 rs2 imm) s = .next t → ∃ u, exec (.lhu rd rs1 imm) t = .next u ∧
      u.readReg rd = if rd = 0 then 0 else s.readReg rs2 &&& 0x0000FFFF) ∧
    (exec (.sb rs1 rs2 imm) s = .next t → ∃ u, exec (.lbu rd rs1 imm) t = .next u ∧
      u.readReg rd = if rd = 0 then 0 else s.readReg rs2 &&& 0x000000FF)

/-- R56: mixed-width accesses see one byte array. -/
def Obligations.MixedWidthAccessesSeeOneByteArray : Prop :=
  ∀ (s t : State) (a : Word), s.params.valid = true → memWrite s a .word 0x11223344 = some t →
    memRead t a .byte = some 0x44 ∧ memRead t (a + 1) .byte = some 0x33 ∧
    memRead t a .half = some 0x3344 ∧ memRead t (a + 2) .half = some 0x1122

/-- R65: a store is seen by a later fetch from its address, with no fence between. -/
def Obligations.StoreIsSeenByTheNextFetch : Prop :=
  ∀ (s t u : State) (rs1 rs2 : RegIdx) (imm : Word), exec (.sw rs1 rs2 imm) s = .next t →
    u.mem = t.mem → u.params = t.params → u.pc = s.readReg rs1 + imm →
    busFetch u = some (s.readReg rs2)

/-! ## Results: CSRs -/

/-- R210, R211, R213 to R218: the CSR instructions, for every address and every register. -/
def Obligations.CsrResults : Prop :=
  ∀ (s : State) (rd rs1 : RegIdx) (zimm : BitVec 5) (a : CsrIdx),
    UpdatesCsr (.csrrw rd rs1 a) s rd a (fun j => (s.readReg rs1).getLsbD j) ∧
    UpdatesCsr (.csrrs rd rs1 a) s rd a
      (fun j => (s.readCsr a).getLsbD j || (s.readReg rs1).getLsbD j) ∧
    UpdatesCsr (.csrrc rd rs1 a) s rd a
      (fun j => (s.readCsr a).getLsbD j && !(s.readReg rs1).getLsbD j) ∧
    UpdatesCsr (.csrrwi rd zimm a) s rd a (fun j => decide (j < 5) && zimm.getLsbD j) ∧
    UpdatesCsr (.csrrsi rd zimm a) s rd a
      (fun j => (s.readCsr a).getLsbD j || (decide (j < 5) && zimm.getLsbD j)) ∧
    UpdatesCsr (.csrrci rd zimm a) s rd a
      (fun j => (s.readCsr a).getLsbD j && !(decide (j < 5) && zimm.getLsbD j))

/-- A write of MTVEC takes effect at once: an ECALL after it goes to the new base (R212, R307). -/
def Obligations.MtvecWriteTakesEffectAtOnce : Prop :=
  ∀ (s t u : State) (rd rs1 : RegIdx), exec (.csrrw rd rs1 0x305) s = .next t → u.csr = t.csr →
    ∃ v, exec .ecall u = .next v ∧ v.nextPc = s.readReg rs1 &&& 0xFFFFFFFC

/-! ## Results: traps and no-ops -/

/-- R267, R268: exception entry for any trap record, and (R231, R232) ECALL and EBREAK take theirs, in
every state. -/
def Obligations.ExceptionEntryResults : Prop :=
  ∀ s : State, TakesException .ecall s 11 ∧ TakesException .ebreak s 3 ∧
    ∀ (c : Cause) (p v : Word), AfterException s (exceptionEntry c p v s) (causeCode c) p v

/-- R270: URET and SRET return from the trap, in every state; MRET does not (R235). -/
def Obligations.TrapReturnResults : Prop :=
  ∀ s : State, ReturnsFromTrap .uret s ∧ ReturnsFromTrap .sret s ∧ exec .mret s = .next s

/-- A trap return after an exception entry, with no CSR written between, restores MIE and goes back to
the trapping instruction (R267, R270). -/
def Obligations.TrapReturnUndoesExceptionEntry : Prop :=
  ∀ (s t u : State) (e q : Instr), e = .ecall ∨ e = .ebreak → q = .uret ∨ q = .sret →
    exec e s = .next t → u.csr = t.csr →
    ∃ v, exec q u = .next v ∧ v.nextPc = s.pc ∧
      getMie (v.readCsr 0x300) = getMie (s.readCsr 0x300) ∧ getMpp (v.readCsr 0x300) = 0

/-- A second exception before any CSR write overwrites MEPC, MCAUSE and MTVAL and leaves MPIE 0
(R271). -/
def Obligations.NestedExceptionLosesTheFirst : Prop :=
  ∀ (s t u v : State) (e : Instr), e = .ecall ∨ e = .ebreak → exec e s = .next t → u.csr = t.csr →
    exec .ecall u = .next v →
    v.readCsr 0x341 = u.pc ∧ v.readCsr 0x342 = 11 ∧ v.readCsr 0x343 = u.pc ∧
      getMpie (v.readCsr 0x300) = 0 ∧ getMie (v.readCsr 0x300) = 0

/-- R235 to R239: MRET, WFI and the fences complete and change nothing. -/
def Obligations.NoOpsChangeNothing : Prop :=
  ∀ (s : State) (pred succ : BitVec 4) (rs1 rs2 : RegIdx),
    exec .mret s = .next s ∧ exec .wfi s = .next s ∧ exec (.fence pred succ) s = .next s ∧
    exec .fenceI s = .next s ∧ exec (.sfenceVma rs1 rs2) s = .next s

/-! ## Pseudo-instructions -/

/-- The expansion of `li rd, imm` is made of well-formed instructions and leaves `imm` in `rd`, for
every constant (R115). -/
def Obligations.LiExpansionLoadsTheConstant : Prop :=
  ∀ (s : State) (rd : RegIdx) (imm : Word),
    (∀ i ∈ Pseudo.pLi rd imm, i.wf = true) ∧
    ∃ t, execAll (Pseudo.pLi rd imm) s = .next t ∧ RegsAfter s t rd imm ∧ SameCsrs s t ∧
      SameBytes s t
end

