-- ==== Sys2Proof/Laws/Bits.lean ====
section
/-!
SUPPORT. The bits of extended, placed and extracted fields, so that a fact about a word reduces to a
fact about its bits.
-/

namespace Sys2Proof

theorem getElem_put {n : Nat} (lo : Nat) (f : BitVec n) (i : Nat) (hi : i < 32) :
    (put lo f)[i] = (decide (lo ≤ i) && f.getLsbD (i - lo)) := by
  unfold put
  rw [BitVec.getElem_shiftLeft]
  by_cases h : lo ≤ i
  · simp [h, Nat.not_lt.2 h]
  · simp [h, Nat.lt_of_not_le h]

theorem getElem_sext {n : Nat} (hn : 0 < n) (v : Word) (i : Nat) (hi : i < 32) :
    (sext n v)[i] = if i < n then v[i] else v.getLsbD (n - 1) := by
  unfold sext
  rw [BitVec.getElem_signExtend]
  split
  · rename_i h; simp [BitVec.getLsbD_eq_getElem hi]
  · simp [BitVec.msb_eq_getLsbD_last, hn]

theorem getElem_zext (n : Nat) (v : Word) (i : Nat) (hi : i < 32) :
    (zext n v)[i] = (decide (i < n) && v[i]) := by
  unfold zext
  simp [BitVec.getLsbD_eq_getElem hi]

/-- The value of a sign extension lies in the range of an `n`-bit two's-complement number. -/
theorem toInt_sext_range {n : Nat} (h0 : 0 < n) (hn : n ≤ 32) (v : Word) :
    -2 ^ (n - 1) ≤ (sext n v).toInt ∧ (sext n v).toInt < 2 ^ (n - 1) := by
  unfold sext
  rw [BitVec.toInt_signExtend_of_le hn]
  have h1 := BitVec.two_mul_toInt_lt (x := v.setWidth n)
  have h2 := BitVec.le_two_mul_toInt (x := v.setWidth n)
  obtain ⟨m, rfl⟩ : ∃ m, n = m + 1 := ⟨n - 1, by omega⟩
  simp only [Nat.add_sub_cancel, pow_succ] at h1 h2 ⊢
  omega

/-- Sign extension keeps the bits it extends from. -/
theorem sext_sext {n : Nat} (h0 : 0 < n) (v : Word) : sext n (sext n v) = sext n v := by
  apply BitVec.eq_of_getElem_eq
  intro i hi
  rw [getElem_sext h0, getElem_sext h0]
  split
  · rfl
  · by_cases hn : n - 1 < 32
    · rw [BitVec.getLsbD_eq_getElem hn, getElem_sext h0, if_pos (by omega), BitVec.getLsbD_eq_getElem hn]
    · omega

namespace Machine

theorem boolWord_eq_one_iff (b : Bool) : boolWord b = 1 ↔ b = true := by cases b <;> decide

/-- The trap target is MTVEC with its low two bits cleared (R33). -/
theorem trapTarget_eq (t : Word) : trapTarget t = t &&& 0xFFFFFFFC := by
  have h : ∀ i : Fin 32, (0xFFFFFFFC : Word)[i] = decide (2 ≤ i.val) := by decide
  apply BitVec.eq_of_getElem_eq
  intro i hi
  have := h ⟨i, hi⟩
  simp only [Fin.getElem_fin] at this
  unfold trapTarget getBase
  rw [getElem_put, BitVec.getElem_and, this]
  by_cases h2 : 2 ≤ i
  · simp [h2, show i - 2 < 30 by omega, BitVec.getLsbD_eq_getElem hi]
  · simp [h2]

/-- The bits of a word after `set_MIE`. -/
theorem getElem_setMie (m : Word) (b : BitVec 1) (i : Nat) (hi : i < 32) :
    (setMie m b)[i] = if i = 3 then b[0] else m[i] := by
  unfold setMie put
  interval_cases i <;> simp

/-- The bits of a word after `set_MPIE`. -/
theorem getElem_setMpie (m : Word) (b : BitVec 1) (i : Nat) (hi : i < 32) :
    (setMpie m b)[i] = if i = 7 then b[0] else m[i] := by
  unfold setMpie put
  interval_cases i <;> simp

/-- The bits of a word after `set_MPP`. -/
theorem getElem_setMpp (m : Word) (p : BitVec 2) (i : Nat) (hi : i < 32) :
    (setMpp m p)[i] = if i = 11 then p[0] else if i = 12 then p[1] else m[i] := by
  unfold setMpp put
  interval_cases i <;> simp

theorem getMie_zero_bit (m : Word) : (getMie m)[0] = m[3] := by simp [getMie]

theorem getMpie_zero_bit (m : Word) : (getMpie m)[0] = m[7] := by simp [getMpie]

end Machine

end Sys2Proof
end

