-- ==== Sys2Proof/Laws/Decode.lean ====
section
/-!
SUPPORT. The fields of an encoded word, format by format, and the immediates a decoder reads back
from it: what the round trip of decode and encode is assembled from.
-/

namespace Sys2Proof

/-! ## What well-formed immediates are -/

theorem isImm12_iff (imm : Word) : isImm12 imm = true ↔ sext 12 imm = imm := by simp [isImm12]

theorem isImmB_iff (imm : Word) : isImmB imm = true ↔ sext 13 imm = imm ∧ imm[0] = false := by
  simp [isImmB]

theorem isImmJ_iff (imm : Word) : isImmJ imm = true ↔ sext 21 imm = imm ∧ imm[0] = false := by
  simp [isImmJ]

theorem isImmU_iff (imm : Word) : isImmU imm = true ↔ imm.extractLsb' 0 12 = 0#12 := by
  simp [isImmU]

/-! ## Fields of words made of placed fields -/

theorem extract_put_same {n : Nat} (lo : Nat) (f : BitVec n) (h : lo + n ≤ 32) :
    (put lo f).extractLsb' lo n = f := by
  ext i hi
  simp only [BitVec.getElem_extractLsb']
  rw [BitVec.getLsbD_eq_getElem (by omega), getElem_put]
  simp [BitVec.getLsbD_eq_getElem hi]

theorem extract_put_disjoint {n : Nat} (lo start len : Nat) (f : BitVec n)
    (h : lo + n ≤ start ∨ start + len ≤ lo) : (put lo f).extractLsb' start len = 0#len := by
  ext i hi
  simp only [BitVec.getElem_extractLsb', BitVec.getElem_zero]
  by_cases hs : start + i < 32
  · rw [BitVec.getLsbD_eq_getElem hs, getElem_put]
    rcases h with h | h
    · rw [BitVec.getLsbD_of_ge _ _ (by omega)]; simp
    · simp [show ¬lo ≤ start + i by omega]
  · exact BitVec.getLsbD_of_ge _ _ (by omega)

theorem extract_or (a b : Word) (start len : Nat) :
    (a ||| b).extractLsb' start len = a.extractLsb' start len ||| b.extractLsb' start len := by
  ext i hi
  simp

/-- Masking a placed field masks the field. -/
theorem put_and {n : Nat} (lo : Nat) (f : BitVec n) (m : Word) :
    put lo f &&& m = put lo (f &&& m.extractLsb' lo n) := by
  apply BitVec.eq_of_getElem_eq
  intro i hi
  rw [BitVec.getElem_and, getElem_put, getElem_put, BitVec.getLsbD_and, BitVec.getLsbD_extractLsb']
  by_cases h1 : lo ≤ i
  · by_cases h2 : i - lo < n
    · simp [h1, h2, show lo + (i - lo) = i by omega, BitVec.getLsbD_eq_getElem hi]
    · simp [BitVec.getLsbD_of_ge f (i - lo) (by omega)]
  · simp [h1]

theorem or_and_mask (a b m : Word) : (a ||| b) &&& m = (a &&& m) ||| (b &&& m) := by
  ext i hi
  simp [Bool.and_or_distrib_right]

@[simp] theorem put_zero {n : Nat} (lo : Nat) : put lo (0 : BitVec n) = 0 := by simp [put]

/-! ## Fields of encoded words -/

section
variable (op : BitVec 7) (f3 : BitVec 3) (f7 : BitVec 7) (rd rs1 rs2 : RegIdx)

@[simp] theorem opcodeOf_encR : opcodeOf (encR op f3 f7 rd rs1 rs2) = op := by
  unfold opcodeOf encR
  simp (disch := omega) [extract_or, extract_put_same, extract_put_disjoint]
@[simp] theorem funct3Of_encR : funct3Of (encR op f3 f7 rd rs1 rs2) = f3 := by
  unfold funct3Of encR
  simp (disch := omega) [extract_or, extract_put_same, extract_put_disjoint]
@[simp] theorem funct7Of_encR : funct7Of (encR op f3 f7 rd rs1 rs2) = f7 := by
  unfold funct7Of encR
  simp (disch := omega) [extract_or, extract_put_same, extract_put_disjoint]
@[simp] theorem rdOf_encR : rdOf (encR op f3 f7 rd rs1 rs2) = rd := by
  unfold rdOf encR
  simp (disch := omega) [extract_or, extract_put_same, extract_put_disjoint]
@[simp] theorem rs1Of_encR : rs1Of (encR op f3 f7 rd rs1 rs2) = rs1 := by
  unfold rs1Of encR
  simp (disch := omega) [extract_or, extract_put_same, extract_put_disjoint]
@[simp] theorem rs2Of_encR : rs2Of (encR op f3 f7 rd rs1 rs2) = rs2 := by
  unfold rs2Of encR
  simp (disch := omega) [extract_or, extract_put_same, extract_put_disjoint]

end

section
variable (op : BitVec 7) (f3 : BitVec 3) (rd rs1 : RegIdx) (imm : Word)

@[simp] theorem opcodeOf_encI : opcodeOf (encI op f3 rd rs1 imm) = op := by
  unfold opcodeOf encI
  simp (disch := omega) [extract_or, extract_put_same, extract_put_disjoint]
@[simp] theorem funct3Of_encI : funct3Of (encI op f3 rd rs1 imm) = f3 := by
  unfold funct3Of encI
  simp (disch := omega) [extract_or, extract_put_same, extract_put_disjoint]
@[simp] theorem rdOf_encI : rdOf (encI op f3 rd rs1 imm) = rd := by
  unfold rdOf encI
  simp (disch := omega) [extract_or, extract_put_same, extract_put_disjoint]
@[simp] theorem rs1Of_encI : rs1Of (encI op f3 rd rs1 imm) = rs1 := by
  unfold rs1Of encI
  simp (disch := omega) [extract_or, extract_put_same, extract_put_disjoint]

end

section
variable (f3 : BitVec 3) (f7 : BitVec 7) (rd rs1 : RegIdx) (shamt : BitVec 5)

@[simp] theorem opcodeOf_encShift : opcodeOf (encShift f3 f7 rd rs1 shamt) = 0b0010011#7 := by
  unfold opcodeOf encShift
  simp (disch := omega) [extract_or, extract_put_same, extract_put_disjoint]
@[simp] theorem funct3Of_encShift : funct3Of (encShift f3 f7 rd rs1 shamt) = f3 := by
  unfold funct3Of encShift
  simp (disch := omega) [extract_or, extract_put_same, extract_put_disjoint]
@[simp] theorem funct7Of_encShift : funct7Of (encShift f3 f7 rd rs1 shamt) = f7 := by
  unfold funct7Of encShift
  simp (disch := omega) [extract_or, extract_put_same, extract_put_disjoint]
@[simp] theorem rdOf_encShift : rdOf (encShift f3 f7 rd rs1 shamt) = rd := by
  unfold rdOf encShift
  simp (disch := omega) [extract_or, extract_put_same, extract_put_disjoint]
@[simp] theorem rs1Of_encShift : rs1Of (encShift f3 f7 rd rs1 shamt) = rs1 := by
  unfold rs1Of encShift
  simp (disch := omega) [extract_or, extract_put_same, extract_put_disjoint]
@[simp] theorem shamtOf_encShift : shamtOf (encShift f3 f7 rd rs1 shamt) = shamt := by
  unfold shamtOf encShift
  simp (disch := omega) [extract_or, extract_put_same, extract_put_disjoint]

end

section
variable (f3 : BitVec 3) (rd : RegIdx) (src : BitVec 5) (csr : CsrIdx)

@[simp] theorem opcodeOf_encCsr : opcodeOf (encCsr f3 rd src csr) = 0b1110011#7 := by
  unfold opcodeOf encCsr
  simp (disch := omega) [extract_or, extract_put_same, extract_put_disjoint]
@[simp] theorem funct3Of_encCsr : funct3Of (encCsr f3 rd src csr) = f3 := by
  unfold funct3Of encCsr
  simp (disch := omega) [extract_or, extract_put_same, extract_put_disjoint]
@[simp] theorem rdOf_encCsr : rdOf (encCsr f3 rd src csr) = rd := by
  unfold rdOf encCsr
  simp (disch := omega) [extract_or, extract_put_same, extract_put_disjoint]
@[simp] theorem rs1Of_encCsr : rs1Of (encCsr f3 rd src csr) = src := by
  unfold rs1Of encCsr
  simp (disch := omega) [extract_or, extract_put_same, extract_put_disjoint]
@[simp] theorem zimmOf_encCsr : zimmOf (encCsr f3 rd src csr) = src := by
  unfold zimmOf encCsr
  simp (disch := omega) [extract_or, extract_put_same, extract_put_disjoint]
@[simp] theorem csrOf_encCsr : csrOf (encCsr f3 rd src csr) = csr := by
  unfold csrOf encCsr
  simp (disch := omega) [extract_or, extract_put_same, extract_put_disjoint]

end

section
variable (pred succ : BitVec 4)

@[simp] theorem opcodeOf_encFence : opcodeOf (encFence pred succ) = 0b0001111#7 := by
  unfold opcodeOf encFence
  simp (disch := omega) [extract_or, extract_put_same, extract_put_disjoint]
@[simp] theorem funct3Of_encFence : funct3Of (encFence pred succ) = 0b000#3 := by
  unfold funct3Of encFence
  simp (disch := omega) [extract_or, extract_put_same, extract_put_disjoint]
@[simp] theorem predOf_encFence : predOf (encFence pred succ) = pred := by
  unfold predOf encFence
  simp (disch := omega) [extract_or, extract_put_same, extract_put_disjoint]
@[simp] theorem succOf_encFence : succOf (encFence pred succ) = succ := by
  unfold succOf encFence
  simp (disch := omega) [extract_or, extract_put_same, extract_put_disjoint]

end

section
variable (imm12 : BitVec 12)

@[simp] theorem opcodeOf_encSentinel : opcodeOf (encSentinel imm12) = 0b1110011#7 := by
  unfold opcodeOf encSentinel
  simp (disch := omega) [extract_or, extract_put_same, extract_put_disjoint]
@[simp] theorem funct3Of_encSentinel : funct3Of (encSentinel imm12) = 0b000#3 := by
  unfold funct3Of encSentinel
  simp (disch := omega) [extract_or, extract_put_same, extract_put_disjoint]
@[simp] theorem imm12Of_encSentinel : imm12Of (encSentinel imm12) = imm12 := by
  unfold imm12Of encSentinel
  simp (disch := omega) [extract_or, extract_put_same, extract_put_disjoint]

end

section
variable (f3 : BitVec 3) (rs1 rs2 : RegIdx) (imm : Word)

@[simp] theorem opcodeOf_encS : opcodeOf (encS f3 rs1 rs2 imm) = 0b0100011#7 := by
  unfold opcodeOf encS
  simp (disch := omega) [extract_or, extract_put_same, extract_put_disjoint]
@[simp] theorem funct3Of_encS : funct3Of (encS f3 rs1 rs2 imm) = f3 := by
  unfold funct3Of encS
  simp (disch := omega) [extract_or, extract_put_same, extract_put_disjoint]
@[simp] theorem rs1Of_encS : rs1Of (encS f3 rs1 rs2 imm) = rs1 := by
  unfold rs1Of encS
  simp (disch := omega) [extract_or, extract_put_same, extract_put_disjoint]
@[simp] theorem rs2Of_encS : rs2Of (encS f3 rs1 rs2 imm) = rs2 := by
  unfold rs2Of encS
  simp (disch := omega) [extract_or, extract_put_same, extract_put_disjoint]

end

section
variable (f3 : BitVec 3) (rs1 rs2 : RegIdx) (imm : Word)

@[simp] theorem opcodeOf_encB : opcodeOf (encB f3 rs1 rs2 imm) = 0b1100011#7 := by
  unfold opcodeOf encB
  simp (disch := omega) [extract_or, extract_put_same, extract_put_disjoint]
@[simp] theorem funct3Of_encB : funct3Of (encB f3 rs1 rs2 imm) = f3 := by
  unfold funct3Of encB
  simp (disch := omega) [extract_or, extract_put_same, extract_put_disjoint]
@[simp] theorem rs1Of_encB : rs1Of (encB f3 rs1 rs2 imm) = rs1 := by
  unfold rs1Of encB
  simp (disch := omega) [extract_or, extract_put_same, extract_put_disjoint]
@[simp] theorem rs2Of_encB : rs2Of (encB f3 rs1 rs2 imm) = rs2 := by
  unfold rs2Of encB
  simp (disch := omega) [extract_or, extract_put_same, extract_put_disjoint]

end

section
variable (op : BitVec 7) (rd : RegIdx) (imm : Word)

@[simp] theorem opcodeOf_encU : opcodeOf (encU op rd imm) = op := by
  unfold opcodeOf encU
  simp (disch := omega) [extract_or, extract_put_same, extract_put_disjoint]
@[simp] theorem rdOf_encU : rdOf (encU op rd imm) = rd := by
  unfold rdOf encU
  simp (disch := omega) [extract_or, extract_put_same, extract_put_disjoint]

end

section
variable (rd : RegIdx) (imm : Word)

@[simp] theorem opcodeOf_encJ : opcodeOf (encJ rd imm) = 0b1101111#7 := by
  unfold opcodeOf encJ
  simp (disch := omega) [extract_or, extract_put_same, extract_put_disjoint]
@[simp] theorem rdOf_encJ : rdOf (encJ rd imm) = rd := by
  unfold rdOf encJ
  simp (disch := omega) [extract_or, extract_put_same, extract_put_disjoint]

end

/-! ## Immediates of encoded words -/

theorem immI_encI (op : BitVec 7) (f3 : BitVec 3) (rd rs1 : RegIdx) (imm : Word) :
    immI (encI op f3 rd rs1 imm) = sext 12 imm := by
  unfold immI encI
  simp (disch := omega) only [extract_or, extract_put_same, extract_put_disjoint, BitVec.or_zero]
  unfold sext put
  congr 1; ext i hi; interval_cases i <;> simp

theorem immS_encS (f3 : BitVec 3) (rs1 rs2 : RegIdx) (imm : Word) :
    immS (encS f3 rs1 rs2 imm) = sext 12 imm := by
  unfold immS encS
  simp (disch := omega) only [extract_or, extract_put_same, extract_put_disjoint, BitVec.or_zero,
    BitVec.zero_or]
  unfold sext put
  congr 1; ext i hi; interval_cases i <;> simp

theorem immB_encB (f3 : BitVec 3) (rs1 rs2 : RegIdx) (imm : Word) (h : imm[0] = false) :
    immB (encB f3 rs1 rs2 imm) = sext 13 imm := by
  unfold immB encB
  simp (disch := omega) only [extract_or, extract_put_same, extract_put_disjoint, BitVec.or_zero,
    BitVec.zero_or]
  unfold sext put
  congr 1; ext i hi; interval_cases i <;> simp [h]

theorem immJ_encJ (rd : RegIdx) (imm : Word) (h : imm[0] = false) :
    immJ (encJ rd imm) = sext 21 imm := by
  unfold immJ encJ
  simp (disch := omega) only [extract_or, extract_put_same, extract_put_disjoint, BitVec.or_zero,
    BitVec.zero_or]
  unfold sext put
  congr 1; ext i hi; interval_cases i <;> simp [h]

theorem immU_encU (op : BitVec 7) (rd : RegIdx) (imm : Word) (h : isImmU imm = true) :
    immU (encU op rd imm) = imm := by
  have h' : ∀ i : Nat, i < 12 → imm.getLsbD i = false := by
    intro i hi
    have := congrArg (fun v => v.getLsbD i) ((isImmU_iff imm).1 h)
    simpa [hi] using this
  unfold immU encU
  simp (disch := omega) only [extract_or, extract_put_same, extract_put_disjoint, BitVec.or_zero]
  unfold put
  ext i hi
  interval_cases i <;> simp [← BitVec.getLsbD_eq_getElem, h']

/-! ## Masks and fields: what a row of the opcode table compares -/

/-- The top seven bits of the SYSTEM selector are funct7. -/
theorem imm12_funct7 (w : Word) : (imm12Of w).extractLsb' 5 7 = funct7Of w := by
  unfold imm12Of funct7Of
  ext i hi
  simp only [BitVec.getElem_extractLsb', BitVec.getLsbD_extractLsb']
  rw [← Nat.add_assoc]
  simp
  intro
  omega

theorem and_mask_opcode (w : Word) : w &&& (0x0000007F : Word) = put 0 (opcodeOf w) := by
  unfold put opcodeOf
  ext i hi
  interval_cases i <;> simp

theorem and_mask_funct3 (w : Word) :
    w &&& (0x0000707F : Word) = put 12 (funct3Of w) ||| put 0 (opcodeOf w) := by
  unfold put opcodeOf funct3Of
  ext i hi
  interval_cases i <;> simp

theorem and_mask_funct7 (w : Word) :
    w &&& (0xFE00707F : Word) =
      put 25 (funct7Of w) ||| put 12 (funct3Of w) ||| put 0 (opcodeOf w) := by
  unfold put opcodeOf funct3Of funct7Of
  ext i hi
  interval_cases i <;> simp

theorem and_mask_imm12 (w : Word) :
    w &&& (0xFFF0707F : Word) =
      put 20 (imm12Of w) ||| put 12 (funct3Of w) ||| put 0 (opcodeOf w) := by
  unfold put opcodeOf funct3Of imm12Of
  ext i hi
  interval_cases i <;> simp

end Sys2Proof
end

