-- ==== Sys2Proof/Laws/Sparse.lean ====
section
/-!
SUPPORT. Sparse data: a read after a write gives the written value at its key and the old value at
every other key, whatever the list; every write keeps the canonical form.
-/

namespace Sys2Proof.Machine

variable {α : Type} (d : α)

theorem sparseGet_erase (l : List (Nat × α)) (k j : Nat) :
    sparseGet d (sparseErase k l) j = if j = k then d else sparseGet d l j := by
  induction l with
  | nil => simp [sparseErase, sparseGet]
  | cons e rest ih =>
    obtain ⟨a, v⟩ := e
    simp only [sparseErase, List.filter_cons] at ih ⊢
    by_cases hak : a = k
    · subst hak
      by_cases hj : j = a
      · subst hj; simpa using ih
      · simp [sparseGet, hj, Ne.symm hj, ih]
    · by_cases haj : a = j
      · subst haj; simp [sparseGet, hak]
      · simp [sparseGet, hak, haj, ih]

theorem sparseGet_insert (l : List (Nat × α)) (k j : Nat) (v : α) (h : ∀ e ∈ l, e.1 ≠ k) :
    sparseGet d (sparseInsert k v l) j = if j = k then v else sparseGet d l j := by
  induction l with
  | nil => simp [sparseInsert, sparseGet, eq_comm]
  | cons e rest ih =>
    obtain ⟨a, w⟩ := e
    have hak : a ≠ k := h _ List.mem_cons_self
    have ih := ih (fun e he => h e (List.mem_cons_of_mem _ he))
    unfold sparseInsert
    split
    · simp [sparseGet, eq_comm]
    · by_cases haj : a = j
      · subst haj; simp [sparseGet, hak]
      · simp [sparseGet, haj, ih]

theorem sparseErase_key_ne (l : List (Nat × α)) (k : Nat) : ∀ e ∈ sparseErase k l, e.1 ≠ k := by
  intro e he
  simpa using (List.mem_filter.1 he).2

/-- Reading after a write. -/
theorem sparseGet_set [DecidableEq α] (l : List (Nat × α)) (k j : Nat) (v : α) :
    sparseGet d (sparseSet d l k v) j = if j = k then v else sparseGet d l j := by
  unfold sparseSet
  split
  · rename_i h
    subst h
    exact sparseGet_erase v l k j
  · rw [sparseGet_insert _ _ _ _ _ (sparseErase_key_ne l k), sparseGet_erase]
    split <;> simp_all

theorem sparseWf_weaken [DecidableEq α] {lo lo' hi hi' : Nat} {l : List (Nat × α)} (h : lo' ≤ lo)
    (h' : hi ≤ hi') (hw : sparseWf d lo hi l = true) : sparseWf d lo' hi' l = true := by
  induction l generalizing lo lo' with
  | nil => rfl
  | cons e rest ih =>
    obtain ⟨a, v⟩ := e
    simp only [sparseWf, Bool.and_eq_true, decide_eq_true_eq] at hw ⊢
    exact ⟨⟨⟨by omega, by omega⟩, hw.1.2⟩, ih (Nat.le_refl _) hw.2⟩

theorem sparseWf_erase [DecidableEq α] {lo hi : Nat} (k : Nat) {l : List (Nat × α)}
    (hw : sparseWf d lo hi l = true) : sparseWf d lo hi (sparseErase k l) = true := by
  induction l generalizing lo with
  | nil => rfl
  | cons e rest ih =>
    obtain ⟨a, v⟩ := e
    simp only [sparseWf, Bool.and_eq_true, decide_eq_true_eq] at hw
    have ih := ih hw.2
    simp only [sparseErase, List.filter_cons] at ih ⊢
    split
    · simp only [sparseWf, Bool.and_eq_true, decide_eq_true_eq]
      exact ⟨hw.1, ih⟩
    · exact sparseWf_weaken d (by omega) (Nat.le_refl _) ih

theorem sparseWf_insert [DecidableEq α] {lo hi k : Nat} {v : α} {l : List (Nat × α)}
    (hlo : lo ≤ k) (hhi : k < hi) (hv : v ≠ d) (hk : ∀ e ∈ l, e.1 ≠ k)
    (hw : sparseWf d lo hi l = true) : sparseWf d lo hi (sparseInsert k v l) = true := by
  induction l generalizing lo with
  | nil => simp [sparseInsert, sparseWf, hlo, hhi, hv]
  | cons e rest ih =>
    obtain ⟨a, w⟩ := e
    have hak : a ≠ k := hk _ List.mem_cons_self
    simp only [sparseWf, Bool.and_eq_true, decide_eq_true_eq] at hw
    unfold sparseInsert
    split
    · simp only [sparseWf, Bool.and_eq_true, decide_eq_true_eq]
      exact ⟨⟨⟨hlo, hhi⟩, hv⟩, ⟨⟨⟨by omega, hw.1.1.2⟩, hw.1.2⟩, hw.2⟩⟩
    · simp only [sparseWf, Bool.and_eq_true, decide_eq_true_eq]
      exact ⟨hw.1, ih (by omega) (fun e he => hk e (List.mem_cons_of_mem _ he)) hw.2⟩

/-- Every write at a key inside the bounds keeps the canonical form. -/
theorem sparseWf_set [DecidableEq α] {lo hi k : Nat} (v : α) {l : List (Nat × α)} (hlo : lo ≤ k)
    (hhi : k < hi) (hw : sparseWf d lo hi l = true) : sparseWf d lo hi (sparseSet d l k v) = true := by
  unfold sparseSet
  split
  · exact sparseWf_erase d k hw
  · exact sparseWf_insert d hlo hhi ‹_› (sparseErase_key_ne l k) (sparseWf_erase d k hw)

theorem sparseGet_of_lt [DecidableEq α] {lo hi k : Nat} {l : List (Nat × α)} (hk : k < lo)
    (hw : sparseWf d lo hi l = true) : sparseGet d l k = d := by
  induction l generalizing lo with
  | nil => rfl
  | cons e rest ih =>
    obtain ⟨a, v⟩ := e
    simp only [sparseWf, Bool.and_eq_true, decide_eq_true_eq] at hw
    have hak : a ≠ k := by omega
    simp only [sparseGet, hak, if_false]
    exact ih (lo := a + 1) (by omega) hw.2

/-- Two lists in canonical form that read alike are the same list. -/
theorem sparse_ext [DecidableEq α] {lo hi : Nat} {l l' : List (Nat × α)} (hw : sparseWf d lo hi l = true)
    (hw' : sparseWf d lo hi l' = true) (h : ∀ k, sparseGet d l k = sparseGet d l' k) : l = l' := by
  induction l generalizing lo l' with
  | nil =>
    cases l' with
    | nil => rfl
    | cons e rest =>
      obtain ⟨a, v⟩ := e
      simp only [sparseWf, Bool.and_eq_true, decide_eq_true_eq] at hw'
      exact absurd (by simpa [sparseGet] using (h a).symm) hw'.1.2
  | cons e rest ih =>
    obtain ⟨a, v⟩ := e
    simp only [sparseWf, Bool.and_eq_true, decide_eq_true_eq] at hw
    cases l' with
    | nil => exact absurd (by simpa [sparseGet] using h a) hw.1.2
    | cons e' rest' =>
      obtain ⟨a', v'⟩ := e'
      simp only [sparseWf, Bool.and_eq_true, decide_eq_true_eq] at hw'
      have haa : a = a' := by
        rcases Nat.lt_trichotomy a a' with hlt | heq | hgt
        · have h1 := h a
          have h2 := sparseGet_of_lt d (k := a) (by omega) hw'.2
          simp only [sparseGet, if_true, show a' ≠ a by omega, if_false, h2] at h1
          exact absurd h1 hw.1.2
        · exact heq
        · have h1 := h a'
          have h2 := sparseGet_of_lt d (k := a') (by omega) hw.2
          simp only [sparseGet, if_true, show a ≠ a' by omega, if_false, h2] at h1
          exact absurd h1.symm hw'.1.2
      subst haa
      have hv : v = v' := by simpa [sparseGet] using h a
      subst hv
      congr 1
      refine ih hw.2 hw'.2 (fun k => ?_)
      by_cases hk : a = k
      · subst hk
        rw [sparseGet_of_lt d (Nat.lt_succ_self a) hw.2, sparseGet_of_lt d (Nat.lt_succ_self a) hw'.2]
      · simpa [sparseGet, hk] using h k

end Sys2Proof.Machine
end

