-- ==== Sys2Proof/Laws/State.lean ====
section
/-!
SUPPORT. One lemma per field per update of State, true by unfolding the record, and the small lemmas
of the register and CSR accessors. Later proofs cite these instead of unfolding an update.
-/

namespace Sys2Proof.Machine

variable (s : State)

/-! ## Field updates -/

@[simp] theorem State.withPc_pc (v : Word) : (s.withPc v).pc = v := rfl
@[simp] theorem State.withPc_nextPc (v : Word) : (s.withPc v).nextPc = s.nextPc := rfl
@[simp] theorem State.withPc_x (v : Word) : (s.withPc v).x = s.x := rfl
@[simp] theorem State.withPc_csr (v : Word) : (s.withPc v).csr = s.csr := rfl
@[simp] theorem State.withPc_mem (v : Word) : (s.withPc v).mem = s.mem := rfl
@[simp] theorem State.withPc_status (v : Word) : (s.withPc v).status = s.status := rfl
@[simp] theorem State.withPc_params (v : Word) : (s.withPc v).params = s.params := rfl

@[simp] theorem State.withNextPc_pc (v : Word) : (s.withNextPc v).pc = s.pc := rfl
@[simp] theorem State.withNextPc_nextPc (v : Word) : (s.withNextPc v).nextPc = v := rfl
@[simp] theorem State.withNextPc_x (v : Word) : (s.withNextPc v).x = s.x := rfl
@[simp] theorem State.withNextPc_csr (v : Word) : (s.withNextPc v).csr = s.csr := rfl
@[simp] theorem State.withNextPc_mem (v : Word) : (s.withNextPc v).mem = s.mem := rfl
@[simp] theorem State.withNextPc_status (v : Word) : (s.withNextPc v).status = s.status := rfl
@[simp] theorem State.withNextPc_params (v : Word) : (s.withNextPc v).params = s.params := rfl

@[simp] theorem State.withRegs_pc (v : Vector Word 32) : (s.withRegs v).pc = s.pc := rfl
@[simp] theorem State.withRegs_nextPc (v : Vector Word 32) : (s.withRegs v).nextPc = s.nextPc := rfl
@[simp] theorem State.withRegs_x (v : Vector Word 32) : (s.withRegs v).x = v := rfl
@[simp] theorem State.withRegs_csr (v : Vector Word 32) : (s.withRegs v).csr = s.csr := rfl
@[simp] theorem State.withRegs_mem (v : Vector Word 32) : (s.withRegs v).mem = s.mem := rfl
@[simp] theorem State.withRegs_status (v : Vector Word 32) : (s.withRegs v).status = s.status := rfl
@[simp] theorem State.withRegs_params (v : Vector Word 32) : (s.withRegs v).params = s.params := rfl

@[simp] theorem State.withCsrs_pc (v : CsrFile) : (s.withCsrs v).pc = s.pc := rfl
@[simp] theorem State.withCsrs_nextPc (v : CsrFile) : (s.withCsrs v).nextPc = s.nextPc := rfl
@[simp] theorem State.withCsrs_x (v : CsrFile) : (s.withCsrs v).x = s.x := rfl
@[simp] theorem State.withCsrs_csr (v : CsrFile) : (s.withCsrs v).csr = v := rfl
@[simp] theorem State.withCsrs_mem (v : CsrFile) : (s.withCsrs v).mem = s.mem := rfl
@[simp] theorem State.withCsrs_status (v : CsrFile) : (s.withCsrs v).status = s.status := rfl
@[simp] theorem State.withCsrs_params (v : CsrFile) : (s.withCsrs v).params = s.params := rfl

@[simp] theorem State.withMem_pc (v : Memory) : (s.withMem v).pc = s.pc := rfl
@[simp] theorem State.withMem_nextPc (v : Memory) : (s.withMem v).nextPc = s.nextPc := rfl
@[simp] theorem State.withMem_x (v : Memory) : (s.withMem v).x = s.x := rfl
@[simp] theorem State.withMem_csr (v : Memory) : (s.withMem v).csr = s.csr := rfl
@[simp] theorem State.withMem_mem (v : Memory) : (s.withMem v).mem = v := rfl
@[simp] theorem State.withMem_status (v : Memory) : (s.withMem v).status = s.status := rfl
@[simp] theorem State.withMem_params (v : Memory) : (s.withMem v).params = s.params := rfl

@[simp] theorem State.withStatus_pc (v : Status) : (s.withStatus v).pc = s.pc := rfl
@[simp] theorem State.withStatus_nextPc (v : Status) : (s.withStatus v).nextPc = s.nextPc := rfl
@[simp] theorem State.withStatus_x (v : Status) : (s.withStatus v).x = s.x := rfl
@[simp] theorem State.withStatus_csr (v : Status) : (s.withStatus v).csr = s.csr := rfl
@[simp] theorem State.withStatus_mem (v : Status) : (s.withStatus v).mem = s.mem := rfl
@[simp] theorem State.withStatus_status (v : Status) : (s.withStatus v).status = v := rfl
@[simp] theorem State.withStatus_params (v : Status) : (s.withStatus v).params = s.params := rfl

@[simp] theorem State.withParams_pc (v : Params) : (s.withParams v).pc = s.pc := rfl
@[simp] theorem State.withParams_nextPc (v : Params) : (s.withParams v).nextPc = s.nextPc := rfl
@[simp] theorem State.withParams_x (v : Params) : (s.withParams v).x = s.x := rfl
@[simp] theorem State.withParams_csr (v : Params) : (s.withParams v).csr = s.csr := rfl
@[simp] theorem State.withParams_mem (v : Params) : (s.withParams v).mem = s.mem := rfl
@[simp] theorem State.withParams_status (v : Params) : (s.withParams v).status = s.status := rfl
@[simp] theorem State.withParams_params (v : Params) : (s.withParams v).params = v := rfl

/-! ## General registers -/

@[simp] theorem State.readReg_zero : s.readReg 0#5 = 0#32 := rfl

@[simp] theorem State.readReg_withPc (v : Word) (r : RegIdx) : (s.withPc v).readReg r = s.readReg r := rfl
@[simp] theorem State.readReg_withNextPc (v : Word) (r : RegIdx) : (s.withNextPc v).readReg r = s.readReg r := rfl
@[simp] theorem State.readReg_withCsrs (v : CsrFile) (r : RegIdx) : (s.withCsrs v).readReg r = s.readReg r := rfl
@[simp] theorem State.readReg_withMem (v : Memory) (r : RegIdx) : (s.withMem v).readReg r = s.readReg r := rfl
@[simp] theorem State.readReg_withStatus (v : Status) (r : RegIdx) : (s.withStatus v).readReg r = s.readReg r := rfl
@[simp] theorem State.readReg_withParams (v : Params) (r : RegIdx) : (s.withParams v).readReg r = s.readReg r := rfl

@[simp] theorem State.writeReg_zero (v : Word) : s.writeReg 0#5 v = s := rfl

@[simp] theorem State.writeReg_pc (r : RegIdx) (v : Word) : (s.writeReg r v).pc = s.pc := by
  unfold State.writeReg; split <;> rfl
@[simp] theorem State.writeReg_nextPc (r : RegIdx) (v : Word) : (s.writeReg r v).nextPc = s.nextPc := by
  unfold State.writeReg; split <;> rfl
@[simp] theorem State.writeReg_csr (r : RegIdx) (v : Word) : (s.writeReg r v).csr = s.csr := by
  unfold State.writeReg; split <;> rfl
@[simp] theorem State.writeReg_mem (r : RegIdx) (v : Word) : (s.writeReg r v).mem = s.mem := by
  unfold State.writeReg; split <;> rfl
@[simp] theorem State.writeReg_status (r : RegIdx) (v : Word) : (s.writeReg r v).status = s.status := by
  unfold State.writeReg; split <;> rfl
@[simp] theorem State.writeReg_params (r : RegIdx) (v : Word) : (s.writeReg r v).params = s.params := by
  unfold State.writeReg; split <;> rfl

/-- Reading a register after writing one: index 0 reads 0, the written index its new value. -/
theorem State.readReg_writeReg (rd r : RegIdx) (v : Word) :
    (s.writeReg rd v).readReg r = if r = 0 then 0 else if r = rd then v else s.readReg r := by
  unfold State.readReg State.writeReg
  by_cases hr : r = 0
  · simp [hr]
  · by_cases hd : rd = 0
    · have hr' : ¬r = 0#5 := hr
      simp [hr', hd]
    · simp only [hr, hd, if_false, State.withRegs_x, Vector.getElem_set, ← BitVec.toNat_inj]
      by_cases h : rd.toNat = r.toNat
      · simp [h]
      · simp [h, Ne.symm h]

/-! ## CSRs -/

@[simp] theorem State.readCsr_withPc (v : Word) (a : CsrIdx) : (s.withPc v).readCsr a = s.readCsr a := rfl
@[simp] theorem State.readCsr_withNextPc (v : Word) (a : CsrIdx) : (s.withNextPc v).readCsr a = s.readCsr a := rfl
@[simp] theorem State.readCsr_withRegs (v : Vector Word 32) (a : CsrIdx) : (s.withRegs v).readCsr a = s.readCsr a := rfl
@[simp] theorem State.readCsr_withMem (v : Memory) (a : CsrIdx) : (s.withMem v).readCsr a = s.readCsr a := rfl
@[simp] theorem State.readCsr_withStatus (v : Status) (a : CsrIdx) : (s.withStatus v).readCsr a = s.readCsr a := rfl
@[simp] theorem State.readCsr_withParams (v : Params) (a : CsrIdx) : (s.withParams v).readCsr a = s.readCsr a := rfl

@[simp] theorem State.readCsr_writeReg (r : RegIdx) (v : Word) (a : CsrIdx) :
    (s.writeReg r v).readCsr a = s.readCsr a := by
  unfold State.writeReg; split <;> rfl

@[simp] theorem State.readReg_writeCsr (a : CsrIdx) (v : Word) (r : RegIdx) :
    (s.writeCsr a v).readReg r = s.readReg r := rfl

@[simp] theorem State.writeCsr_pc (a : CsrIdx) (v : Word) : (s.writeCsr a v).pc = s.pc := rfl
@[simp] theorem State.writeCsr_nextPc (a : CsrIdx) (v : Word) : (s.writeCsr a v).nextPc = s.nextPc := rfl
@[simp] theorem State.writeCsr_x (a : CsrIdx) (v : Word) : (s.writeCsr a v).x = s.x := rfl
@[simp] theorem State.writeCsr_mem (a : CsrIdx) (v : Word) : (s.writeCsr a v).mem = s.mem := rfl
@[simp] theorem State.writeCsr_status (a : CsrIdx) (v : Word) : (s.writeCsr a v).status = s.status := rfl
@[simp] theorem State.writeCsr_params (a : CsrIdx) (v : Word) : (s.writeCsr a v).params = s.params := rfl

/-! ## Bytes of the store -/

@[simp] theorem State.byteAt_withPc (v : Word) (a : Nat) : (s.withPc v).byteAt a = s.byteAt a := rfl
@[simp] theorem State.byteAt_withNextPc (v : Word) (a : Nat) : (s.withNextPc v).byteAt a = s.byteAt a := rfl
@[simp] theorem State.byteAt_withRegs (v : Vector Word 32) (a : Nat) : (s.withRegs v).byteAt a = s.byteAt a := rfl
@[simp] theorem State.byteAt_withCsrs (v : CsrFile) (a : Nat) : (s.withCsrs v).byteAt a = s.byteAt a := rfl
@[simp] theorem State.byteAt_withStatus (v : Status) (a : Nat) : (s.withStatus v).byteAt a = s.byteAt a := rfl
@[simp] theorem State.byteAt_withParams (v : Params) (a : Nat) : (s.withParams v).byteAt a = s.byteAt a := rfl

@[simp] theorem State.byteAt_withMem (m : Memory) (a : Nat) : (s.withMem m).byteAt a = readByte m a := rfl

@[simp] theorem State.byteAt_writeReg (r : RegIdx) (v : Word) (a : Nat) :
    (s.writeReg r v).byteAt a = s.byteAt a := by
  unfold State.writeReg; split <;> rfl

@[simp] theorem State.byteAt_writeCsr (c : CsrIdx) (v : Word) (a : Nat) :
    (s.writeCsr c v).byteAt a = s.byteAt a := rfl

end Sys2Proof.Machine
end

