-- ==== Sys2Proof/Laws/Memory.lean ====
section
/-!
SUPPORT. The store and the CSR file: what a read gives after a write, which bytes a wide write
changes, the bits of a wide read, and that every operation keeps the canonical form.
-/

namespace Sys2Proof.Machine

/-! ## Bytes -/

theorem readByte_writeByte (m : Memory) (a b : Nat) (v : Byte) :
    readByte (writeByte m a v) b = if b = a then v else readByte m b :=
  sparseGet_set _ m a b v

/-- A wide write changes exactly its own bytes, byte `i` to bits `8i+7 .. 8i` of the value (R54). -/
theorem readByte_writeLE (n : Nat) (m : Memory) (a b : Nat) (v : Word) :
    readByte (writeLE m a n v) b =
      if a ≤ b ∧ b < a + n then (v >>> (8 * (b - a))).setWidth 8 else readByte m b := by
  induction n generalizing m a v with
  | zero =>
    rw [if_neg (by omega)]; rfl
  | succ n ih =>
    simp only [writeLE, ih, readByte_writeByte]
    by_cases h1 : b = a
    · subst h1
      rw [if_neg (by omega), if_pos (by omega)]
      simp
    · by_cases h2 : a + 1 ≤ b ∧ b < a + 1 + n
      · rw [if_pos h2, if_pos (by omega), ← BitVec.shiftRight_add]
        congr 2; omega
      · rw [if_neg h2, if_neg h1, if_neg (by omega)]

/-- Bit `i` of a wide read is bit `i mod 8` of byte `i / 8` (R53). -/
theorem getElem_readLE (n : Nat) (m : Memory) (a i : Nat) (hi : i < 32) :
    (readLE m a n)[i] = (decide (i < 8 * n) && (readByte m (a + i / 8)).getLsbD (i % 8)) := by
  induction n generalizing a i with
  | zero => simp [readLE]
  | succ n ih =>
    simp only [readLE, BitVec.getElem_or, getElem_put, BitVec.getElem_shiftLeft, Nat.zero_le,
      decide_true, Bool.true_and, Nat.sub_zero]
    by_cases h : i < 8
    · have h1 : i / 8 = 0 := by omega
      have h2 : i % 8 = i := by omega
      simp [h, h1, h2]; intro; omega
    · have h1 : i - 8 < 32 := by omega
      have h3 : a + 1 + (i - 8) / 8 = a + i / 8 := by omega
      have h4 : (i - 8) % 8 = i % 8 := by omega
      rw [ih _ _ h1, h3, h4, BitVec.getLsbD_of_ge _ _ (Nat.le_of_not_lt h)]
      simp only [h, decide_false, Bool.not_false, Bool.true_and, Bool.false_or]
      congr 1
      simp only [decide_eq_decide]
      omega

/-- Reading back the bytes a wide write stored gives the low bytes of the value. -/
theorem readLE_writeLE_same (n : Nat) (m : Memory) (a : Nat) (v : Word) :
    readLE (writeLE m a n v) a n = zext (8 * n) v := by
  apply BitVec.eq_of_getElem_eq
  intro i hi
  rw [getElem_readLE, getElem_zext, readByte_writeLE]
  by_cases h : i < 8 * n
  · have h1 : i % 8 < 8 := by omega
    have h2 : 8 * (i / 8) + i % 8 = i := by omega
    rw [if_pos (by omega)]
    simp [h, h1, h2, BitVec.getLsbD_eq_getElem hi]
  · simp [h]

/-- A wide read sees only its own bytes. -/
theorem readLE_congr (n : Nat) (m m' : Memory) (a : Nat)
    (h : ∀ b, a ≤ b → b < a + n → readByte m b = readByte m' b) : readLE m a n = readLE m' a n := by
  apply BitVec.eq_of_getElem_eq
  intro i hi
  rw [getElem_readLE, getElem_readLE]
  by_cases hn : i < 8 * n
  · rw [h _ (by omega) (by omega)]
  · simp [hn]

/-! ## The canonical form -/

theorem wfIn_writeByte {size : Nat} {m : Memory} {a : Nat} (v : Byte) (hlo : memBase ≤ a)
    (hhi : a < memBase + size) (hw : Memory.wfIn size m = true) :
    Memory.wfIn size (writeByte m a v) = true :=
  sparseWf_set _ v hlo hhi hw

theorem wfIn_writeLE {size n : Nat} {m : Memory} {a : Nat} (v : Word) (hlo : memBase ≤ a)
    (hhi : a + n ≤ memBase + size) (hw : Memory.wfIn size m = true) :
    Memory.wfIn size (writeLE m a n v) = true := by
  induction n generalizing m a v with
  | zero => exact hw
  | succ n ih => exact ih _ (by omega) (by omega) (wfIn_writeByte _ hlo (by omega) hw)

theorem wfIn_loadBytes {size : Nat} {m : Memory} {a : Nat} (image : List Byte) (hlo : memBase ≤ a)
    (hhi : a + image.length ≤ memBase + size) (hw : Memory.wfIn size m = true) :
    Memory.wfIn size (loadBytes m a image) = true := by
  induction image generalizing m a with
  | nil => exact hw
  | cons b rest ih =>
    simp only [List.length_cons] at hhi
    exact ih (by omega) (by omega) (wfIn_writeByte b hlo (by omega) hw)

/-- The canonical form inside a store of a legal size is the canonical form. -/
theorem wf_of_wfIn {size : Nat} {m : Memory} (h : size ≤ 2 ^ 31) (hw : Memory.wfIn size m = true) :
    Memory.wf m = true :=
  sparseWf_weaken _ (Nat.le_refl _) (Nat.add_le_add_left h _) hw

theorem wf_csr_set {c : CsrFile} (a : CsrIdx) (v : Word) (hw : CsrFile.wf c = true) :
    CsrFile.wf (sparseSet 0 c a.toNat v) = true :=
  sparseWf_set _ v (Nat.zero_le _) a.isLt hw

/-- The bytes an image puts in the store (R303). -/
theorem readByte_loadBytes (image : List Byte) (m : Memory) (a b : Nat) :
    readByte (loadBytes m a image) b =
      if h : a ≤ b ∧ b - a < image.length then image[b - a]'h.2 else readByte m b := by
  induction image generalizing m a with
  | nil => simp [loadBytes]
  | cons v rest ih =>
    simp only [loadBytes, ih, readByte_writeByte, List.length_cons]
    by_cases h1 : b = a
    · subst h1
      simp
    · by_cases h2 : a + 1 ≤ b ∧ b - (a + 1) < rest.length
      · obtain ⟨k, hk⟩ : ∃ k, b - a = k + 1 := ⟨b - a - 1, by omega⟩
        have hk' : b - (a + 1) = k := by omega
        rw [dif_pos h2, dif_pos (by omega)]
        simp [hk, hk']
      · rw [dif_neg h2, dif_neg (by omega), if_neg h1]

/-! ## The bus -/

theorem inRange_iff (p : Params) (a : Word) (n : Nat) :
    inRange p a n = true ↔ memBase ≤ a.toNat ∧ a.toNat + n ≤ memBase + p.memSize := by
  simp [inRange]

/-- Everything a bus read can answer. -/
theorem memRead_eq_some {s : State} {a : Word} {w : Width} {v : Word} :
    memRead s a w = some v ↔
      inRange s.params a (widthBytes w) = true ∧ v = readLE s.mem a.toNat (widthBytes w) := by
  unfold memRead
  split
  · rename_i h
    rw [Option.some.injEq]
    exact ⟨fun e => ⟨h, e.symm⟩, fun e => e.2.symm⟩
  · rename_i h
    exact ⟨fun e => (by cases e), fun e => absurd e.1 h⟩

/-- A bus error is exactly an access out of range. -/
theorem memRead_eq_none {s : State} {a : Word} {w : Width} :
    memRead s a w = none ↔ inRange s.params a (widthBytes w) = false := by
  unfold memRead
  split <;> simp_all

/-- Everything a bus write can do. -/
theorem memWrite_eq_some {s t : State} {a : Word} {w : Width} {v : Word} :
    memWrite s a w v = some t ↔
      inRange s.params a (widthBytes w) = true ∧
        t = s.withMem (writeLE s.mem a.toNat (widthBytes w) v) := by
  unfold memWrite
  split
  · rename_i h
    rw [Option.some.injEq]
    exact ⟨fun e => ⟨h, e.symm⟩, fun e => e.2.symm⟩
  · rename_i h
    exact ⟨fun e => (by cases e), fun e => absurd e.1 h⟩

theorem memWrite_eq_none {s : State} {a : Word} {w : Width} {v : Word} :
    memWrite s a w v = none ↔ inRange s.params a (widthBytes w) = false := by
  unfold memWrite
  split <;> simp_all

/-! ## CSRs -/

/-- Reading a CSR after writing one. -/
theorem State.readCsr_writeCsr (s : State) (a b : CsrIdx) (v : Word) :
    (s.writeCsr a v).readCsr b = if b = a then v else s.readCsr b := by
  unfold State.readCsr State.writeCsr
  simp only [State.withCsrs_csr, sparseGet_set, BitVec.toNat_inj]

end Sys2Proof.Machine
end

