-- ==== Sys2Proof/Laws/Ops.lean ====
section
/-!
SUPPORT. What each shared operation can do, said once: taking an exception, returning from a trap,
and the shapes of the meanings.
-/

namespace Sys2Proof.Machine

/-! ## Taking an exception (R267) -/

section
variable (c : Cause) (p v : Word) (s : State)

@[simp] theorem exceptionEntry_pc : (exceptionEntry c p v s).pc = s.pc := rfl
@[simp] theorem exceptionEntry_x : (exceptionEntry c p v s).x = s.x := rfl
@[simp] theorem exceptionEntry_mem : (exceptionEntry c p v s).mem = s.mem := rfl
@[simp] theorem exceptionEntry_status : (exceptionEntry c p v s).status = s.status := rfl
@[simp] theorem exceptionEntry_params : (exceptionEntry c p v s).params = s.params := rfl
@[simp] theorem exceptionEntry_nextPc :
    (exceptionEntry c p v s).nextPc = trapTarget (s.readCsr csrMtvec) := rfl
@[simp] theorem readReg_exceptionEntry (r : RegIdx) :
    (exceptionEntry c p v s).readReg r = s.readReg r := rfl

/-- Every CSR after an exception. -/
theorem readCsr_exceptionEntry (a : CsrIdx) :
    (exceptionEntry c p v s).readCsr a =
      if a = csrMtval then v
      else if a = csrMepc then p
      else if a = csrMcause then causeCode c
      else if a = csrMstatus then
        setMpp (setMie (setMpie (s.readCsr csrMstatus) (getMie (s.readCsr csrMstatus))) 0) 0b11
      else s.readCsr a := by
  simp only [exceptionEntry, State.readCsr_withNextPc, State.readCsr_writeCsr]

/-- Bit `i` of MSTATUS after an exception: MIE clear, MPIE the old MIE, MPP 3, the rest kept. -/
theorem getElem_mstatus_exceptionEntry (i : Nat) (hi : i < 32) :
    ((exceptionEntry c p v s).readCsr csrMstatus)[i] =
      if i = 3 then false
      else if i = 7 then (s.readCsr csrMstatus)[3]
      else if i = 11 ∨ i = 12 then true
      else (s.readCsr csrMstatus)[i] := by
  rw [readCsr_exceptionEntry, if_neg (by decide), if_neg (by decide), if_neg (by decide), if_pos rfl,
    getElem_setMpp, getElem_setMie, getElem_setMpie, getMie_zero_bit]
  by_cases h3 : i = 3
  · subst h3; rfl
  · by_cases h7 : i = 7
    · subst h7; rfl
    · by_cases h11 : i = 11
      · subst h11; rfl
      · by_cases h12 : i = 12
        · subst h12; rfl
        · simp [h3, h7, h11, h12]

end

/-! ## Trap return (R270) -/

section
variable (s : State)

@[simp] theorem trapReturn_pc : (trapReturn s).pc = s.pc := rfl
@[simp] theorem trapReturn_x : (trapReturn s).x = s.x := rfl
@[simp] theorem trapReturn_mem : (trapReturn s).mem = s.mem := rfl
@[simp] theorem trapReturn_status : (trapReturn s).status = s.status := rfl
@[simp] theorem trapReturn_params : (trapReturn s).params = s.params := rfl
@[simp] theorem trapReturn_nextPc : (trapReturn s).nextPc = s.readCsr csrMepc := rfl
@[simp] theorem readReg_trapReturn (r : RegIdx) : (trapReturn s).readReg r = s.readReg r := rfl

/-- Every CSR after a trap return. -/
theorem readCsr_trapReturn (a : CsrIdx) :
    (trapReturn s).readCsr a =
      if a = csrMstatus then
        setMie (setMpp (s.readCsr csrMstatus) 0b00) (getMpie (setMpp (s.readCsr csrMstatus) 0b00))
      else s.readCsr a := by
  simp only [trapReturn, State.readCsr_withNextPc, State.readCsr_writeCsr]

/-- Bit `i` of MSTATUS after a trap return: MIE the old MPIE, MPP 0, the rest kept. -/
theorem getElem_mstatus_trapReturn (i : Nat) (hi : i < 32) :
    ((trapReturn s).readCsr csrMstatus)[i] =
      if i = 3 then (s.readCsr csrMstatus)[7]
      else if i = 11 ∨ i = 12 then false
      else (s.readCsr csrMstatus)[i] := by
  rw [readCsr_trapReturn, if_pos rfl, getElem_setMie, getMpie_zero_bit, getElem_setMpp, getElem_setMpp]
  by_cases h3 : i = 3
  · subst h3; rfl
  · by_cases h11 : i = 11
    · subst h11; rfl
    · by_cases h12 : i = 12
      · subst h12; rfl
      · simp [h3, h11, h12]

end

/-! ## The shapes of the meanings -/

/-- Everything a load can do. -/
theorem loadTo_cases (w : Width) (ext : Word → Word) (rd rs1 : RegIdx) (imm : Word) (s : State) :
    (inRange s.params (effAddr rs1 imm s) (widthBytes w) = true ∧
      loadTo w ext rd rs1 imm s =
        .next (s.writeReg rd (ext (readLE s.mem (effAddr rs1 imm s).toNat (widthBytes w))))) ∨
    (inRange s.params (effAddr rs1 imm s) (widthBytes w) = false ∧
      loadTo w ext rd rs1 imm s = .fault (.loadError (effAddr rs1 imm s) s.pc)) := by
  unfold loadTo
  cases h : memRead s (effAddr rs1 imm s) w with
  | none => exact .inr ⟨memRead_eq_none.1 h, rfl⟩
  | some v =>
    obtain ⟨h1, rfl⟩ := memRead_eq_some.1 h
    exact .inl ⟨h1, rfl⟩

/-- Everything a store can do. -/
theorem storeFrom_cases (w : Width) (rs1 rs2 : RegIdx) (imm : Word) (s : State) :
    (inRange s.params (effAddr rs1 imm s) (widthBytes w) = true ∧
      storeFrom w rs1 rs2 imm s =
        .next (s.withMem
          (writeLE s.mem (effAddr rs1 imm s).toNat (widthBytes w) (s.readReg rs2)))) ∨
    (inRange s.params (effAddr rs1 imm s) (widthBytes w) = false ∧
      storeFrom w rs1 rs2 imm s = .fault (.storeError (effAddr rs1 imm s) s.pc)) := by
  unfold storeFrom
  cases h : memWrite s (effAddr rs1 imm s) w (s.readReg rs2) with
  | none => exact .inr ⟨memWrite_eq_none.1 h, rfl⟩
  | some t =>
    obtain ⟨h1, rfl⟩ := memWrite_eq_some.1 h
    exact .inl ⟨h1, rfl⟩

end Sys2Proof.Machine
end

