-- ==== Sys2Proof/Laws/Exec.lean ====
section
/-!
SUPPORT. What one instruction, one step and one cycle can do, said once as inversion lemmas.
-/

namespace Sys2Proof.Machine

/-- The kinds of effect a completed instruction can have: a register and `next_pc`; the bytes of one
in-range store; one CSR and a register; or a routed trap. -/
theorem exec_next_cases {i : Instr} {s t : State} (h : exec i s = .next t) :
    (∃ npc rd v, t = (s.withNextPc npc).writeReg rd v) ∨
    (∃ a w v, inRange s.params a (widthBytes w) = true ∧
      t = s.withMem (writeLE s.mem a.toNat (widthBytes w) v)) ∨
    (∃ a v rd u, t = (s.writeCsr a v).writeReg rd u) ∨
    (∃ tr, t = routeTrap tr s) := by
  have hres : ∀ {rd v}, writeResult rd v s = .next t →
      ∃ npc rd v, t = (s.withNextPc npc).writeReg rd v := by
    intro rd v e
    cases e
    exact ⟨s.nextPc, rd, v, rfl⟩
  have hbr : ∀ {b imm}, branchIf b imm s = .next t →
      ∃ npc rd v, t = (s.withNextPc npc).writeReg rd v := by
    intro b imm e
    cases e
    cases b
    · exact ⟨s.nextPc, 0, 0, rfl⟩
    · exact ⟨s.pc + imm, 0, 0, rfl⟩
  have hjmp : ∀ {rd target}, jumpAndLink rd target s = .next t →
      ∃ npc rd v, t = (s.withNextPc npc).writeReg rd v := by
    intro rd target e
    cases e
    exact ⟨target, rd, s.nextPc, rfl⟩
  have hnop : Host.Outcome.next (φ := Fault) (ρ := Refusal) s = .next t →
      ∃ npc rd v, t = (s.withNextPc npc).writeReg rd v := by
    intro e
    cases e
    exact ⟨s.nextPc, 0, 0, rfl⟩
  have hld : ∀ {w ext rd rs1 imm}, loadTo w ext rd rs1 imm s = .next t →
      ∃ npc rd v, t = (s.withNextPc npc).writeReg rd v := by
    intro w ext rd rs1 imm e
    rcases loadTo_cases w ext rd rs1 imm s with ⟨-, h1⟩ | ⟨-, h1⟩
    · rw [h1] at e
      cases e
      exact ⟨s.nextPc, rd, _, rfl⟩
    · rw [h1] at e
      cases e
  have hst : ∀ {w rs1 rs2 imm}, storeFrom w rs1 rs2 imm s = .next t →
      ∃ a w v, inRange s.params a (widthBytes w) = true ∧
        t = s.withMem (writeLE s.mem a.toNat (widthBytes w) v) := by
    intro w rs1 rs2 imm e
    rcases storeFrom_cases w rs1 rs2 imm s with ⟨hr, h1⟩ | ⟨-, h1⟩
    · rw [h1] at e
      cases e
      exact ⟨_, w, _, hr, rfl⟩
    · rw [h1] at e
      cases e
  have hcsr : ∀ {rd a f}, csrUpdate rd a f s = .next t →
      ∃ a v rd u, t = (s.writeCsr a v).writeReg rd u := by
    intro rd a f e
    cases e
    exact ⟨a, _, rd, _, rfl⟩
  have htr : ∀ {tr}, Host.Outcome.next (φ := Fault) (ρ := Refusal) (routeTrap tr s) = .next t →
      ∃ tr, t = routeTrap tr s := by
    intro tr e
    cases e
    exact ⟨tr, rfl⟩
  cases i
  case jal | jalr => exact .inl (hjmp h)
  case beq | bne | blt | bge | bltu | bgeu => exact .inl (hbr h)
  case lb | lh | lw | lbu | lhu => exact .inl (hld h)
  case sb | sh | sw => exact .inr (.inl (hst h))
  case csrrw rd rs1 a => exact .inr (.inr (.inl (hcsr (f := fun _ => s.readReg rs1) h)))
  case csrrs rd rs1 a => exact .inr (.inr (.inl (hcsr (f := fun old => old ||| s.readReg rs1) h)))
  case csrrc rd rs1 a =>
    exact .inr (.inr (.inl (hcsr (f := fun old => old &&& ~~~(s.readReg rs1)) h)))
  case csrrwi rd z a => exact .inr (.inr (.inl (hcsr (f := fun _ => zimmWord z) h)))
  case csrrsi rd z a => exact .inr (.inr (.inl (hcsr (f := fun old => old ||| zimmWord z) h)))
  case csrrci rd z a => exact .inr (.inr (.inl (hcsr (f := fun old => old &&& ~~~(zimmWord z)) h)))
  case ecall | ebreak | uret | sret => exact .inr (.inr (.inr (htr h)))
  case fence | fenceI | wfi | mret | sfenceVma => exact .inl (hnop h)
  all_goals exact .inl (hres h)

/-- Everything a step that completes has done: fetched, decoded, executed and committed. -/
theorem step_next_cases {s t : State} (h : step s = .next t) :
    s.status = .running ∧ ∃ w i u, busFetch s = some w ∧ decode w = some i ∧
      exec i (beginCycle s) = .next u ∧ t = commitPc u := by
  unfold step at h
  split at h
  · cases h
  · rename_i hs
    split at h
    · cases h
    · rename_i w hw
      split at h
      · cases h
      · rename_i i hi
        refine ⟨hs, w, i, ?_⟩
        cases he : exec i (beginCycle s) with
        | next u =>
          rw [he] at h
          cases h
          exact ⟨u, hw, hi, rfl, rfl⟩
        | fault r => rw [he] at h; cases h
        | refused r => rw [he] at h; cases h

/-- Every way a step can stop with a fault. -/
theorem step_fault_cases {s : State} {r : Fault} (h : step s = .fault r) :
    s.status = .fatal r ∨ (s.status = .running ∧
      ((busFetch s = none ∧ r = .fetchError s.pc) ∨
       (∃ w, busFetch s = some w ∧ decode w = none ∧ r = .decodeError w s.pc) ∨
       (∃ w i, busFetch s = some w ∧ decode w = some i ∧ exec i (beginCycle s) = .fault r))) := by
  unfold step at h
  split at h
  · rename_i hs
    cases h
    exact .inl hs
  · rename_i hs
    refine .inr ⟨hs, ?_⟩
    split at h
    · rename_i hw
      cases h
      exact .inl ⟨hw, rfl⟩
    · rename_i w hw
      split at h
      · rename_i hd
        cases h
        exact .inr (.inl ⟨w, hw, hd, rfl⟩)
      · rename_i i hi
        refine .inr (.inr ⟨w, i, hw, hi, ?_⟩)
        cases he : exec i (beginCycle s) with
        | next u => rw [he] at h; cases h
        | fault q => rw [he] at h; cases h; rfl
        | refused q => rw [he] at h; cases h

/-- A running core's step on the instruction at `pc`. -/
theorem step_of_decode {s : State} {w : Word} {i : Instr} (hs : s.status = .running)
    (hw : busFetch s = some w) (hi : decode w = some i) :
    step s = commitOutcome (exec i (beginCycle s)) := by
  simp only [step, hs, hw, hi]

/-- A halted core's step. -/
theorem step_of_fatal {s : State} {r : Fault} (hs : s.status = .fatal r) : step s = .fault r := by
  simp only [step, hs]

/-- A halted core's cycle changes nothing. -/
theorem cycle_of_fatal {s : State} {r : Fault} (hs : s.status = .fatal r) : cycle s = s := by
  obtain ⟨pc, npc, x, csr, mem, st, ps⟩ := s
  simp only at hs
  subst hs
  rfl

end Sys2Proof.Machine
end

