-- ==== Sys2Proof/Laws/Frames.lean ====
section
/-!
SUPPORT. The terms of Sys2Proof/Safety.lean over the state updates, and when an access is in the
store.
-/

namespace Sys2Proof.Machine

/-- Writing a register, whatever else changed, leaves the registers as `RegsAfter` says. -/
theorem regsAfter_writeReg {s t : State} (rd : RegIdx) (v : Word)
    (h : ∀ r, t.readReg r = s.readReg r) : RegsAfter s (t.writeReg rd v) rd v := by
  intro r
  rw [State.readReg_writeReg]
  by_cases h0 : r = 0
  · subst h0; simp
  · by_cases h1 : r = rd
    · subst h1; simp
    · simp [h1, h]

/-- Writing a CSR leaves the CSRs as `CsrsAfter` says. -/
theorem csrsAfter_writeCsr (s : State) (a : CsrIdx) (v : Word) : CsrsAfter s (s.writeCsr a v) a v :=
  fun b => State.readCsr_writeCsr s a b v

/-- The bytes of an access are in the store exactly when the bus finds it in range (R52). -/
theorem inStore_iff {s : State} {a : Word} {n : Nat} :
    InStore s a n ↔ inRange s.params a n = true :=
  (inRange_iff s.params a n).symm

/-- What `mapNext` does to each outcome. -/
@[simp] theorem mapNext_next (f : State → State) (s : State) : mapNext f (.next s) = .next (f s) :=
  rfl
@[simp] theorem mapNext_fault (f : State → State) (r : Fault) : mapNext f (.fault r) = .fault r := rfl
@[simp] theorem mapNext_refused (f : State → State) (r : Refusal) :
    mapNext f (.refused r) = .refused r := rfl

end Sys2Proof.Machine
end

