-- ==== Sys2Proof/Laws/PerInstr.lean ====
section
/-!
SUPPORT. Statements made per instruction. `EncodeMatchesRow`: the encoder's word of every
instruction is a word of its own row of spec/opcode_table.json (its mnemonic, its mask and match).
-/

namespace Sys2Proof.Laws.EncodeMatchesRow

/-- The word the encoder writes is accepted by the table row of the instruction's mnemonic. -/
def Statement (i : Instr) : Prop :=
  ∃ row ∈ opcodeTable, row.mnemonic = i.mnemonic ∧ row.accepts (encode i) = true

/-- A row is in the table at a place of it. -/
theorem row_at {i : Instr} (k : Nat) (hk : k < opcodeTable.length)
    (hm : opcodeTable[k].mnemonic = i.mnemonic)
    (ha : encode i &&& opcodeTable[k].mask = opcodeTable[k].fixed) : Statement i :=
  ⟨opcodeTable[k], List.getElem_mem hk, hm, by simpa [TableRow.accepts] using ha⟩

theorem lui (rd : RegIdx) (imm : Word) : Statement (.lui rd imm) := by
  refine row_at 0 (by decide) rfl ?_
  change encode _ &&& (0x0000007F : Word) = 0x00000037
  unfold encode encU
  simp (disch := omega) [or_and_mask, put_and]
  try decide

theorem auipc (rd : RegIdx) (imm : Word) : Statement (.auipc rd imm) := by
  refine row_at 1 (by decide) rfl ?_
  change encode _ &&& (0x0000007F : Word) = 0x00000017
  unfold encode encU
  simp (disch := omega) [or_and_mask, put_and]
  try decide

theorem jal (rd : RegIdx) (imm : Word) : Statement (.jal rd imm) := by
  refine row_at 2 (by decide) rfl ?_
  change encode _ &&& (0x0000007F : Word) = 0x0000006F
  unfold encode encJ
  simp (disch := omega) [or_and_mask, put_and]
  try decide

theorem jalr (rd : RegIdx) (rs1 : RegIdx) (imm : Word) : Statement (.jalr rd rs1 imm) := by
  refine row_at 3 (by decide) rfl ?_
  change encode _ &&& (0x0000707F : Word) = 0x00000067
  unfold encode encI
  simp (disch := omega) [or_and_mask, put_and]
  try decide

theorem beq (rs1 : RegIdx) (rs2 : RegIdx) (imm : Word) : Statement (.beq rs1 rs2 imm) := by
  refine row_at 4 (by decide) rfl ?_
  change encode _ &&& (0x0000707F : Word) = 0x00000063
  unfold encode encB
  simp (disch := omega) [or_and_mask, put_and]
  try decide

theorem bne (rs1 : RegIdx) (rs2 : RegIdx) (imm : Word) : Statement (.bne rs1 rs2 imm) := by
  refine row_at 5 (by decide) rfl ?_
  change encode _ &&& (0x0000707F : Word) = 0x00001063
  unfold encode encB
  simp (disch := omega) [or_and_mask, put_and]
  try decide

theorem blt (rs1 : RegIdx) (rs2 : RegIdx) (imm : Word) : Statement (.blt rs1 rs2 imm) := by
  refine row_at 6 (by decide) rfl ?_
  change encode _ &&& (0x0000707F : Word) = 0x00004063
  unfold encode encB
  simp (disch := omega) [or_and_mask, put_and]
  try decide

theorem bge (rs1 : RegIdx) (rs2 : RegIdx) (imm : Word) : Statement (.bge rs1 rs2 imm) := by
  refine row_at 7 (by decide) rfl ?_
  change encode _ &&& (0x0000707F : Word) = 0x00005063
  unfold encode encB
  simp (disch := omega) [or_and_mask, put_and]
  try decide

theorem bltu (rs1 : RegIdx) (rs2 : RegIdx) (imm : Word) : Statement (.bltu rs1 rs2 imm) := by
  refine row_at 8 (by decide) rfl ?_
  change encode _ &&& (0x0000707F : Word) = 0x00006063
  unfold encode encB
  simp (disch := omega) [or_and_mask, put_and]
  try decide

theorem bgeu (rs1 : RegIdx) (rs2 : RegIdx) (imm : Word) : Statement (.bgeu rs1 rs2 imm) := by
  refine row_at 9 (by decide) rfl ?_
  change encode _ &&& (0x0000707F : Word) = 0x00007063
  unfold encode encB
  simp (disch := omega) [or_and_mask, put_and]
  try decide

theorem lb (rd : RegIdx) (rs1 : RegIdx) (imm : Word) : Statement (.lb rd rs1 imm) := by
  refine row_at 10 (by decide) rfl ?_
  change encode _ &&& (0x0000707F : Word) = 0x00000003
  unfold encode encI
  simp (disch := omega) [or_and_mask, put_and]
  try decide

theorem lh (rd : RegIdx) (rs1 : RegIdx) (imm : Word) : Statement (.lh rd rs1 imm) := by
  refine row_at 11 (by decide) rfl ?_
  change encode _ &&& (0x0000707F : Word) = 0x00001003
  unfold encode encI
  simp (disch := omega) [or_and_mask, put_and]
  try decide

theorem lw (rd : RegIdx) (rs1 : RegIdx) (imm : Word) : Statement (.lw rd rs1 imm) := by
  refine row_at 12 (by decide) rfl ?_
  change encode _ &&& (0x0000707F : Word) = 0x00002003
  unfold encode encI
  simp (disch := omega) [or_and_mask, put_and]
  try decide

theorem lbu (rd : RegIdx) (rs1 : RegIdx) (imm : Word) : Statement (.lbu rd rs1 imm) := by
  refine row_at 13 (by decide) rfl ?_
  change encode _ &&& (0x0000707F : Word) = 0x00004003
  unfold encode encI
  simp (disch := omega) [or_and_mask, put_and]
  try decide

theorem lhu (rd : RegIdx) (rs1 : RegIdx) (imm : Word) : Statement (.lhu rd rs1 imm) := by
  refine row_at 14 (by decide) rfl ?_
  change encode _ &&& (0x0000707F : Word) = 0x00005003
  unfold encode encI
  simp (disch := omega) [or_and_mask, put_and]
  try decide

theorem sb (rs1 : RegIdx) (rs2 : RegIdx) (imm : Word) : Statement (.sb rs1 rs2 imm) := by
  refine row_at 15 (by decide) rfl ?_
  change encode _ &&& (0x0000707F : Word) = 0x00000023
  unfold encode encS
  simp (disch := omega) [or_and_mask, put_and]
  try decide

theorem sh (rs1 : RegIdx) (rs2 : RegIdx) (imm : Word) : Statement (.sh rs1 rs2 imm) := by
  refine row_at 16 (by decide) rfl ?_
  change encode _ &&& (0x0000707F : Word) = 0x00001023
  unfold encode encS
  simp (disch := omega) [or_and_mask, put_and]
  try decide

theorem sw (rs1 : RegIdx) (rs2 : RegIdx) (imm : Word) : Statement (.sw rs1 rs2 imm) := by
  refine row_at 17 (by decide) rfl ?_
  change encode _ &&& (0x0000707F : Word) = 0x00002023
  unfold encode encS
  simp (disch := omega) [or_and_mask, put_and]
  try decide

theorem addi (rd : RegIdx) (rs1 : RegIdx) (imm : Word) : Statement (.addi rd rs1 imm) := by
  refine row_at 18 (by decide) rfl ?_
  change encode _ &&& (0x0000707F : Word) = 0x00000013
  unfold encode encI
  simp (disch := omega) [or_and_mask, put_and]
  try decide

theorem slti (rd : RegIdx) (rs1 : RegIdx) (imm : Word) : Statement (.slti rd rs1 imm) := by
  refine row_at 19 (by decide) rfl ?_
  change encode _ &&& (0x0000707F : Word) = 0x00002013
  unfold encode encI
  simp (disch := omega) [or_and_mask, put_and]
  try decide

theorem sltiu (rd : RegIdx) (rs1 : RegIdx) (imm : Word) : Statement (.sltiu rd rs1 imm) := by
  refine row_at 20 (by decide) rfl ?_
  change encode _ &&& (0x0000707F : Word) = 0x00003013
  unfold encode encI
  simp (disch := omega) [or_and_mask, put_and]
  try decide

theorem xori (rd : RegIdx) (rs1 : RegIdx) (imm : Word) : Statement (.xori rd rs1 imm) := by
  refine row_at 21 (by decide) rfl ?_
  change encode _ &&& (0x0000707F : Word) = 0x00004013
  unfold encode encI
  simp (disch := omega) [or_and_mask, put_and]
  try decide

theorem ori (rd : RegIdx) (rs1 : RegIdx) (imm : Word) : Statement (.ori rd rs1 imm) := by
  refine row_at 22 (by decide) rfl ?_
  change encode _ &&& (0x0000707F : Word) = 0x00006013
  unfold encode encI
  simp (disch := omega) [or_and_mask, put_and]
  try decide

theorem andi (rd : RegIdx) (rs1 : RegIdx) (imm : Word) : Statement (.andi rd rs1 imm) := by
  refine row_at 23 (by decide) rfl ?_
  change encode _ &&& (0x0000707F : Word) = 0x00007013
  unfold encode encI
  simp (disch := omega) [or_and_mask, put_and]
  try decide

theorem slli (rd : RegIdx) (rs1 : RegIdx) (shamt : BitVec 5) : Statement (.slli rd rs1 shamt) := by
  refine row_at 24 (by decide) rfl ?_
  change encode _ &&& (0xFE00707F : Word) = 0x00001013
  unfold encode encShift
  simp (disch := omega) [or_and_mask, put_and]
  try decide

theorem srli (rd : RegIdx) (rs1 : RegIdx) (shamt : BitVec 5) : Statement (.srli rd rs1 shamt) := by
  refine row_at 25 (by decide) rfl ?_
  change encode _ &&& (0xFE00707F : Word) = 0x00005013
  unfold encode encShift
  simp (disch := omega) [or_and_mask, put_and]
  try decide

theorem srai (rd : RegIdx) (rs1 : RegIdx) (shamt : BitVec 5) : Statement (.srai rd rs1 shamt) := by
  refine row_at 26 (by decide) rfl ?_
  change encode _ &&& (0xFE00707F : Word) = 0x40005013
  unfold encode encShift
  simp (disch := omega) [or_and_mask, put_and]
  try decide

theorem add (rd : RegIdx) (rs1 : RegIdx) (rs2 : RegIdx) : Statement (.add rd rs1 rs2) := by
  refine row_at 27 (by decide) rfl ?_
  change encode _ &&& (0xFE00707F : Word) = 0x00000033
  unfold encode encR
  simp (disch := omega) [or_and_mask, put_and]
  try decide

theorem sub (rd : RegIdx) (rs1 : RegIdx) (rs2 : RegIdx) : Statement (.sub rd rs1 rs2) := by
  refine row_at 28 (by decide) rfl ?_
  change encode _ &&& (0xFE00707F : Word) = 0x40000033
  unfold encode encR
  simp (disch := omega) [or_and_mask, put_and]
  try decide

theorem sll (rd : RegIdx) (rs1 : RegIdx) (rs2 : RegIdx) : Statement (.sll rd rs1 rs2) := by
  refine row_at 29 (by decide) rfl ?_
  change encode _ &&& (0xFE00707F : Word) = 0x00001033
  unfold encode encR
  simp (disch := omega) [or_and_mask, put_and]
  try decide

theorem slt (rd : RegIdx) (rs1 : RegIdx) (rs2 : RegIdx) : Statement (.slt rd rs1 rs2) := by
  refine row_at 30 (by decide) rfl ?_
  change encode _ &&& (0xFE00707F : Word) = 0x00002033
  unfold encode encR
  simp (disch := omega) [or_and_mask, put_and]
  try decide

theorem sltu (rd : RegIdx) (rs1 : RegIdx) (rs2 : RegIdx) : Statement (.sltu rd rs1 rs2) := by
  refine row_at 31 (by decide) rfl ?_
  change encode _ &&& (0xFE00707F : Word) = 0x00003033
  unfold encode encR
  simp (disch := omega) [or_and_mask, put_and]
  try decide

theorem xor (rd : RegIdx) (rs1 : RegIdx) (rs2 : RegIdx) : Statement (.xor rd rs1 rs2) := by
  refine row_at 32 (by decide) rfl ?_
  change encode _ &&& (0xFE00707F : Word) = 0x00004033
  unfold encode encR
  simp (disch := omega) [or_and_mask, put_and]
  try decide

theorem srl (rd : RegIdx) (rs1 : RegIdx) (rs2 : RegIdx) : Statement (.srl rd rs1 rs2) := by
  refine row_at 33 (by decide) rfl ?_
  change encode _ &&& (0xFE00707F : Word) = 0x00005033
  unfold encode encR
  simp (disch := omega) [or_and_mask, put_and]
  try decide

theorem sra (rd : RegIdx) (rs1 : RegIdx) (rs2 : RegIdx) : Statement (.sra rd rs1 rs2) := by
  refine row_at 34 (by decide) rfl ?_
  change encode _ &&& (0xFE00707F : Word) = 0x40005033
  unfold encode encR
  simp (disch := omega) [or_and_mask, put_and]
  try decide

theorem or (rd : RegIdx) (rs1 : RegIdx) (rs2 : RegIdx) : Statement (.or rd rs1 rs2) := by
  refine row_at 35 (by decide) rfl ?_
  change encode _ &&& (0xFE00707F : Word) = 0x00006033
  unfold encode encR
  simp (disch := omega) [or_and_mask, put_and]
  try decide

theorem and (rd : RegIdx) (rs1 : RegIdx) (rs2 : RegIdx) : Statement (.and rd rs1 rs2) := by
  refine row_at 36 (by decide) rfl ?_
  change encode _ &&& (0xFE00707F : Word) = 0x00007033
  unfold encode encR
  simp (disch := omega) [or_and_mask, put_and]
  try decide

theorem fence (pred : BitVec 4) (succ : BitVec 4) : Statement (.fence pred succ) := by
  refine row_at 37 (by decide) rfl ?_
  change encode _ &&& (0x0000707F : Word) = 0x0000000F
  unfold encode encFence
  simp (disch := omega) [or_and_mask, put_and]
  try decide

theorem fenceI : Statement (.fenceI) := by
  refine row_at 38 (by decide) rfl ?_
  change encode _ &&& (0x0000707F : Word) = 0x0000100F
  unfold encode encI
  simp (disch := omega) [or_and_mask, put_and]
  try decide

theorem ecall : Statement (.ecall) := by
  refine row_at 39 (by decide) rfl ?_
  change encode _ &&& (0xFFF0707F : Word) = 0x00000073
  unfold encode encSentinel
  simp (disch := omega) [or_and_mask, put_and]
  try decide

theorem ebreak : Statement (.ebreak) := by
  refine row_at 40 (by decide) rfl ?_
  change encode _ &&& (0xFFF0707F : Word) = 0x00100073
  unfold encode encSentinel
  simp (disch := omega) [or_and_mask, put_and]
  try decide

theorem uret : Statement (.uret) := by
  refine row_at 41 (by decide) rfl ?_
  change encode _ &&& (0xFFF0707F : Word) = 0x00200073
  unfold encode encSentinel
  simp (disch := omega) [or_and_mask, put_and]
  try decide

theorem sret : Statement (.sret) := by
  refine row_at 42 (by decide) rfl ?_
  change encode _ &&& (0xFFF0707F : Word) = 0x10200073
  unfold encode encSentinel
  simp (disch := omega) [or_and_mask, put_and]
  try decide

theorem wfi : Statement (.wfi) := by
  refine row_at 43 (by decide) rfl ?_
  change encode _ &&& (0xFFF0707F : Word) = 0x10500073
  unfold encode encSentinel
  simp (disch := omega) [or_and_mask, put_and]
  try decide

theorem mret : Statement (.mret) := by
  refine row_at 44 (by decide) rfl ?_
  change encode _ &&& (0xFFF0707F : Word) = 0x30200073
  unfold encode encSentinel
  simp (disch := omega) [or_and_mask, put_and]
  try decide

theorem sfenceVma (rs1 : RegIdx) (rs2 : RegIdx) : Statement (.sfenceVma rs1 rs2) := by
  refine row_at 45 (by decide) rfl ?_
  change encode _ &&& (0xFE00707F : Word) = 0x12000073
  unfold encode encR
  simp (disch := omega) [or_and_mask, put_and]
  try decide

theorem csrrw (rd : RegIdx) (rs1 : RegIdx) (csr : CsrIdx) : Statement (.csrrw rd rs1 csr) := by
  refine row_at 46 (by decide) rfl ?_
  change encode _ &&& (0x0000707F : Word) = 0x00001073
  unfold encode encCsr
  simp (disch := omega) [or_and_mask, put_and]
  try decide

theorem csrrs (rd : RegIdx) (rs1 : RegIdx) (csr : CsrIdx) : Statement (.csrrs rd rs1 csr) := by
  refine row_at 47 (by decide) rfl ?_
  change encode _ &&& (0x0000707F : Word) = 0x00002073
  unfold encode encCsr
  simp (disch := omega) [or_and_mask, put_and]
  try decide

theorem csrrc (rd : RegIdx) (rs1 : RegIdx) (csr : CsrIdx) : Statement (.csrrc rd rs1 csr) := by
  refine row_at 48 (by decide) rfl ?_
  change encode _ &&& (0x0000707F : Word) = 0x00003073
  unfold encode encCsr
  simp (disch := omega) [or_and_mask, put_and]
  try decide

theorem csrrwi (rd : RegIdx) (zimm : BitVec 5) (csr : CsrIdx) : Statement (.csrrwi rd zimm csr) := by
  refine row_at 49 (by decide) rfl ?_
  change encode _ &&& (0x0000707F : Word) = 0x00005073
  unfold encode encCsr
  simp (disch := omega) [or_and_mask, put_and]
  try decide

theorem csrrsi (rd : RegIdx) (zimm : BitVec 5) (csr : CsrIdx) : Statement (.csrrsi rd zimm csr) := by
  refine row_at 50 (by decide) rfl ?_
  change encode _ &&& (0x0000707F : Word) = 0x00006073
  unfold encode encCsr
  simp (disch := omega) [or_and_mask, put_and]
  try decide

theorem csrrci (rd : RegIdx) (zimm : BitVec 5) (csr : CsrIdx) : Statement (.csrrci rd zimm csr) := by
  refine row_at 51 (by decide) rfl ?_
  change encode _ &&& (0x0000707F : Word) = 0x00007073
  unfold encode encCsr
  simp (disch := omega) [or_and_mask, put_and]
  try decide

end Sys2Proof.Laws.EncodeMatchesRow
end

