-- ==== Sys2Proof/Tests/Slice0.lean ====
section
/-!
SUPPORT. The model's own tests, each a closed theorem: ill-formed terms, words written out field by
field from the formats of spec/30_encoding.md, one-step tests whose expected values are those of
spec/95_test_vectors.md (V<n>), and a witness for every statement that has hypotheses.
-/

namespace Sys2Proof.Tests

open Sys2Proof Sys2Proof.Machine

/-! ## Well-formedness: each check refuses an ill-formed term -/

/-- R91: 2048 does not fit a signed 12-bit immediate. -/
theorem test_wf_refuses_wide_immI : (Instr.addi 1 0 0x00000800).wf = false := by decide
/-- R92: -2049 does not fit a signed 12-bit immediate. -/
theorem test_wf_refuses_wide_immS : (Instr.sw 1 2 0xFFFFF7FF).wf = false := by decide
/-- R93: 4096 does not fit, and an odd offset does not exist. -/
theorem test_wf_refuses_bad_immB :
    (Instr.beq 1 2 0x00001000).wf = false ∧ (Instr.beq 1 2 3).wf = false := by decide
/-- R94: a U immediate has no low 12 bits. -/
theorem test_wf_refuses_bad_immU : (Instr.lui 1 0x12345001).wf = false := by decide
/-- R95: 2^20 does not fit, and an odd offset does not exist. -/
theorem test_wf_refuses_bad_immJ :
    (Instr.jal 1 0x00100000).wf = false ∧ (Instr.jal 1 0xFFFFFFFF).wf = false := by decide

/-! ## Decoding: a word of every row, its fields written out -/

/-- U format (R89). -/
theorem test_decode_upper :
    decode 0b00010010001101000101_00101_0110111 = some (.lui 5 0x12345000) ∧
    decode 0b11111111111111111111_00101_0010111 = some (.auipc 5 0xFFFFF000) := by decide

/-- OP-IMM: I format and its shift variant (R83, R84). -/
theorem test_decode_opImm :
    decode 0b100000000000_00000_000_00101_0010011 = some (.addi 5 0 0xFFFFF800) ∧
    decode 0b111111111111_00001_010_00101_0010011 = some (.slti 5 1 0xFFFFFFFF) ∧
    decode 0b000000000001_00001_011_00101_0010011 = some (.sltiu 5 1 1) ∧
    decode 0b111111111111_00001_100_00101_0010011 = some (.xori 5 1 0xFFFFFFFF) ∧
    decode 0b011111111111_00001_110_00101_0010011 = some (.ori 5 1 0x7FF) ∧
    decode 0b100000000000_00001_111_00101_0010011 = some (.andi 5 1 0xFFFFF800) ∧
    decode 0b0000000_11111_00001_001_00101_0010011 = some (.slli 5 1 31) ∧
    decode 0b0000000_11111_00001_101_00101_0010011 = some (.srli 5 1 31) ∧
    decode 0b0100000_00100_00001_101_00101_0010011 = some (.srai 5 1 4) := by decide

/-- OP: R format (R82). -/
theorem test_decode_op :
    decode 0b0000000_00010_00001_000_00011_0110011 = some (.add 3 1 2) ∧
    decode 0b0100000_00010_00001_000_00011_0110011 = some (.sub 3 1 2) ∧
    decode 0b0000000_00010_00001_001_00011_0110011 = some (.sll 3 1 2) ∧
    decode 0b0000000_00010_00001_010_00011_0110011 = some (.slt 3 1 2) ∧
    decode 0b0000000_00010_00001_011_00011_0110011 = some (.sltu 3 1 2) ∧
    decode 0b0000000_00010_00001_100_00011_0110011 = some (.xor 3 1 2) ∧
    decode 0b0000000_00010_00001_101_00011_0110011 = some (.srl 3 1 2) ∧
    decode 0b0100000_00010_00001_101_00011_0110011 = some (.sra 3 1 2) ∧
    decode 0b0000000_00010_00001_110_00011_0110011 = some (.or 3 1 2) ∧
    decode 0b0000000_00010_00001_111_00011_0110011 = some (.and 3 1 2) := by decide

/-- JAL, JALR and the branches: J, I and B formats (R90, R83, R88). -/
theorem test_decode_control :
    decode 0b0_1111111111_1_11111111_00001_1101111 = some (.jal 1 0x000FFFFE) ∧
    decode 0b000000000100_00010_000_00001_1100111 = some (.jalr 1 2 4) ∧
    decode 0b1_000000_00000_00000_000_0000_0_1100011 = some (.beq 0 0 0xFFFFF000) ∧
    decode 0b1_111111_00010_00001_001_1100_1_1100011 = some (.bne 1 2 0xFFFFFFF8) ∧
    decode 0b0_111111_00010_00001_100_1111_1_1100011 = some (.blt 1 2 0x00000FFE) ∧
    decode 0b0_000000_00010_00001_101_0100_0_1100011 = some (.bge 1 2 8) ∧
    decode 0b0_000000_00010_00001_110_0100_0_1100011 = some (.bltu 1 2 8) ∧
    decode 0b0_000000_00010_00001_111_0100_0_1100011 = some (.bgeu 1 2 8) := by decide

/-- loads and stores: I and S formats (R83, R87). -/
theorem test_decode_memory :
    decode 0b000000000001_00001_000_00011_0000011 = some (.lb 3 1 1) ∧
    decode 0b000000000010_00001_001_00011_0000011 = some (.lh 3 1 2) ∧
    decode 0b111111111100_00001_010_00011_0000011 = some (.lw 3 1 0xFFFFFFFC) ∧
    decode 0b000000000000_00001_100_00011_0000011 = some (.lbu 3 1 0) ∧
    decode 0b000000000010_00001_101_00011_0000011 = some (.lhu 3 1 2) ∧
    decode 0b0000000_00010_00001_000_00000_0100011 = some (.sb 1 2 0) ∧
    decode 0b0000000_00010_00001_001_00010_0100011 = some (.sh 1 2 2) ∧
    decode 0b1111111_00010_00001_010_11100_0100011 = some (.sw 1 2 0xFFFFFFFC) := by decide

/-- I-CSR format (R85). -/
theorem test_decode_csr :
    decode 0b001101000000_00110_001_00101_1110011 = some (.csrrw 5 6 0x340) ∧
    decode 0b111100010100_00000_010_00101_1110011 = some (.csrrs 5 0 0xF14) ∧
    decode 0b001101000000_00110_011_00101_1110011 = some (.csrrc 5 6 0x340) ∧
    decode 0b001101000000_11111_101_00101_1110011 = some (.csrrwi 5 31 0x340) ∧
    decode 0b001101000000_00001_110_00101_1110011 = some (.csrrsi 5 1 0x340) ∧
    decode 0b001100000000_01000_111_00000_1110011 = some (.csrrci 0 8 0x300) := by decide

/-- FENCE, the sentinels and SFENCE.VMA (R86, R83, R82). -/
theorem test_decode_system :
    decode 0b1000_0011_0011_00000_000_00000_0001111 = some (.fence 0b0011 0b0011) ∧
    decode 0b000000000000_00000_001_00000_0001111 = some (.fenceI) ∧
    decode 0b000000000000_00000_000_00000_1110011 = some (.ecall) ∧
    decode 0b000000000001_00000_000_00000_1110011 = some (.ebreak) ∧
    decode 0b000000000010_00000_000_00000_1110011 = some (.uret) ∧
    decode 0b000100000010_00000_000_00000_1110011 = some (.sret) ∧
    decode 0b000100000101_00000_000_00000_1110011 = some (.wfi) ∧
    decode 0b001100000010_00000_000_00000_1110011 = some (.mret) ∧
    decode 0b0001001_00010_00001_000_00000_1110011 = some (.sfenceVma 1 2) := by decide

/-- Words that decode to nothing (R109, V1 to V17). -/
theorem test_decode_fails :
    decode 0x00000000 = none ∧
    decode 0xFFFFFFFF = none ∧
    decode 0x00000001 = none ∧
    decode 0x02000033 = none ∧
    decode 0x00004073 = none ∧
    decode 0x0000200F = none ∧
    decode 0x02109293 = none ∧
    decode 0x4210D293 = none ∧
    decode 0x40001033 = none ∧
    decode 0x00001067 = none ∧
    decode 0x00003003 = none ∧
    decode 0x00003023 = none ∧
    decode 0x00002063 = none ∧
    decode 0x00300073 = none ∧
    decode 0x0000202F = none := by decide

/-- Fields that are not compared: ECALL with rd = 1 (V15), FENCE.I with an immediate (R108). -/
theorem test_decode_ignores_uncompared_fields :
    decode 0x000000F3 = some .ecall ∧ decode 0x7FF0100F = some .fenceI := by decide
/-- A byte list shorter than a word is rejected by name. -/
theorem test_decode_too_short : decodeBytes [0x13, 0, 0] = .reject .tooShort := by decide
/-- `unimp` is an ordinary CSR write on this block (R115). -/
theorem test_unimp_word : Pseudo.pUnimp.map encode = [0xC0001073] := by decide

/-! ## Small states -/

/-- The reset state with the differences that a vector lists. -/
def boot (pc : Word) (regs : List (RegIdx × Word)) (csrs : List (CsrIdx × Word))
    (bytes : List (Word × List Byte)) : State :=
  let s := { State.reset with pc := pc }
  let s := regs.foldl (fun u e => u.writeReg e.1 e.2) s
  let s := csrs.foldl (fun u e => u.writeCsr e.1 e.2) s
  s.withMem (bytes.foldl (fun m e => loadBytes m e.1.toNat e.2) s.mem)

/-- A state at the reset address with these registers. -/
def regs (l : List (RegIdx × Word)) : State := boot 0x80000000 l [] []

/-- Registers x1, x2 and x3 set, the last to the vectors' marker value. -/
def two (a b : Word) : State := regs [(1, a), (2, b), (3, 0xDEADBEEF)]

/-- x1 set, and x5 to the vectors' marker value. -/
def one (a : Word) : State := regs [(1, a), (5, 0xDEADBEEF)]

/-- The vectors' data bytes 80 7F 00 80 at 0x8000_1000, x1 set, and x3 to the marker. -/
def data (a : Word) : State :=
  boot 0x80000000 [(1, a), (3, 0xDEADBEEF)] [] [(0x80001000, [0x80, 0x7F, 0x00, 0x80])]

/-- x1 and x2 set for a store. -/
def toStore (a v : Word) : State := regs [(1, a), (2, v)]

/-- x5, x6 and one CSR set. -/
def withCsr (a : CsrIdx) (v x6 : Word) : State :=
  boot 0x80000000 [(5, 0xDEADBEEF), (6, x6)] [(a, v)] []

/-- What a step on this word at `pc` leaves, seen through `f`; `none` where it stops. -/
def after {α : Type} (w : Nat) (s : State) (f : State → α) : Option α :=
  match step (s.withFetchWord 32 w) with
  | .next t => some (f t)
  | .fault _ => none
  | .refused _ => none

/-- The fault of a step on this word at `pc`. -/
def stopOf (w : Nat) (s : State) : Option Fault :=
  match step (s.withFetchWord 32 w) with
  | .fault r => some r
  | .next _ => none
  | .refused _ => none

/-- A register and the pc. -/
def rp (r : RegIdx) (t : State) : Word × Word := (t.readReg r, t.pc)

/-- The CSRs of a trap (MSTATUS, MEPC, MCAUSE, MTVAL) and the pc. -/
def trapView (t : State) : List Word :=
  [t.readCsr 0x300, t.readCsr 0x341, t.readCsr 0x342, t.readCsr 0x343, t.pc]

/-- `n` bytes from `a` on. -/
def bytesAt (a n : Nat) (t : State) : List Byte := (List.range n).map (fun k => t.byteAt (a + k))

/-! ## One step -/

/-- V19. -/
theorem test_lui : after 0x123452B7 (one 0) (rp 5) = some (0x12345000, 0x80000004) := by decide
/-- V21: the write is discarded. -/
theorem test_lui_x0 : after 0x12345037 (one 0) (rp 0) = some (0x00000000, 0x80000004) := by decide
/-- V23: wraps. -/
theorem test_auipc : after 0x80000297 (one 0) (rp 5) = some (0x00000000, 0x80000004) := by decide
/-- V29: rd = rs1, wrap. -/
theorem test_addi : after 0x00108093 (one 0xFFFFFFFF) (rp 1) = some (0x00000000, 0x80000004) := by decide
/-- V31. -/
theorem test_slti : after 0xFFF0A293 (one 0) (rp 5) = some (0x00000000, 0x80000004) := by decide
/-- V30. -/
theorem test_slti_negative : after 0x0000A293 (one 0xFFFFFFFF) (rp 5) = some (0x00000001, 0x80000004) := by decide
/-- V33. -/
theorem test_sltiu : after 0xFFF0B293 (one 0) (rp 5) = some (0x00000001, 0x80000004) := by decide
/-- V34. -/
theorem test_sltiu_equal : after 0xFFF0B293 (one 0xFFFFFFFF) (rp 5) = some (0x00000000, 0x80000004) := by decide
/-- V36. -/
theorem test_xori : after 0xFFF0C293 (one 0x0F0F0F0F) (rp 5) = some (0xF0F0F0F0, 0x80000004) := by decide
/-- V37. -/
theorem test_ori : after 0x7FF0E293 (one 0x80000000) (rp 5) = some (0x800007FF, 0x80000004) := by decide
/-- V38. -/
theorem test_andi : after 0x8000F293 (one 0xFFFFFFFF) (rp 5) = some (0xFFFFF800, 0x80000004) := by decide
/-- V40. -/
theorem test_slli : after 0x01F09293 (one 1) (rp 5) = some (0x80000000, 0x80000004) := by decide
/-- V42. -/
theorem test_srli : after 0x01F0D293 (one 0x80000000) (rp 5) = some (0x00000001, 0x80000004) := by decide
/-- V44. -/
theorem test_srai : after 0x4040D293 (one 0x80000000) (rp 5) = some (0xF8000000, 0x80000004) := by decide
/-- V46: wrap. -/
theorem test_add : after 0x002081B3 (two 0xFFFFFFFF 1) (rp 3) = some (0x00000000, 0x80000004) := by decide
/-- V51. -/
theorem test_sub : after 0x402081B3 (two 0x80000000 1) (rp 3) = some (0x7FFFFFFF, 0x80000004) := by decide
/-- V53: amount 33 counts as 1. -/
theorem test_sll : after 0x002091B3 (two 1 33) (rp 3) = some (0x00000002, 0x80000004) := by decide
/-- V55. -/
theorem test_slt : after 0x0020A1B3 (two 0x80000000 0x7FFFFFFF) (rp 3) = some (0x00000001, 0x80000004) := by decide
/-- V56. -/
theorem test_sltu : after 0x0020B1B3 (two 0x80000000 0x7FFFFFFF) (rp 3) = some (0x00000000, 0x80000004) := by decide
/-- V59. -/
theorem test_xor : after 0x0020C1B3 (two 0xFF00FF00 0x0FF00FF0) (rp 3) = some (0xF0F0F0F0, 0x80000004) := by decide
/-- V61. -/
theorem test_srl : after 0x0020D1B3 (two 0x80000000 4) (rp 3) = some (0x08000000, 0x80000004) := by decide
/-- V62. -/
theorem test_sra : after 0x4020D1B3 (two 0x80000000 31) (rp 3) = some (0xFFFFFFFF, 0x80000004) := by decide
/-- V63: amount 32 counts as 0. -/
theorem test_sra_masks : after 0x4020D1B3 (two 0x80000000 32) (rp 3) = some (0x80000000, 0x80000004) := by decide
/-- V65. -/
theorem test_or : after 0x0020E1B3 (two 0xFF00FF00 0x0FF00FF0) (rp 3) = some (0xFFF0FFF0, 0x80000004) := by decide
/-- V66. -/
theorem test_and : after 0x0020F1B3 (two 0xFF00FF00 0x0FF00FF0) (rp 3) = some (0x0F000F00, 0x80000004) := by decide

/-- V70: a target outside the store completes. -/
theorem test_jal : after 0xFFDFF0EF (one 0) (rp 1) = some (0x80000004, 0x7FFFFFFC) := by decide
/-- V74: rd = rs1. -/
theorem test_jalr : after 0x000080E7 (one 0x80000100) (rp 1) = some (0x80000004, 0x80000100) := by decide
/-- V73. -/
theorem test_jalr_keeps_bit_0 : after 0x00110067 (two 0 0x80000100) State.pc = some 0x80000101 := by decide
/-- V77. -/
theorem test_beq : after 0x00208863 (two 7 7) State.pc = some 0x80000010 := by decide
/-- V78. -/
theorem test_beq_not_taken : after 0x00208863 (two 7 8) State.pc = some 0x80000004 := by decide
/-- V81. -/
theorem test_bne : after 0xFE209CE3 (boot 0x80000010 [(1, 1), (2, 2)] [] []) State.pc = some 0x80000008 := by decide
/-- V80. -/
theorem test_bne_not_taken : after 0x00001863 (two 0 0) State.pc = some 0x80000004 := by decide
/-- V82. -/
theorem test_blt : after 0x0020C463 (two 0xFFFFFFFF 1) State.pc = some 0x80000008 := by decide
/-- V84: equal. -/
theorem test_bge : after 0x0020D463 (two 0x80000000 0x80000000) State.pc = some 0x80000008 := by decide
/-- V85. -/
theorem test_bge_not_taken : after 0x0020D463 (two 0x80000000 0) State.pc = some 0x80000004 := by decide
/-- V83. -/
theorem test_bltu : after 0x0020E463 (two 0xFFFFFFFF 1) State.pc = some 0x80000004 := by decide
/-- V86. -/
theorem test_bgeu : after 0x0020F463 (two 0x80000000 0) State.pc = some 0x80000008 := by decide

/-- V89. -/
theorem test_lb : after 0x00008183 (data 0x80001000) (rp 3) = some (0xFFFFFF80, 0x80000004) := by decide
/-- V92. -/
theorem test_lh : after 0x00209183 (data 0x80001000) (rp 3) = some (0xFFFF8000, 0x80000004) := by decide
/-- V96: negative offset. -/
theorem test_lw : after 0xFFC0A183 (data 0x80001004) (rp 3) = some (0x80007F80, 0x80000004) := by decide
/-- V101, its two listed bytes the nonzero ones. -/
theorem test_lw_last_word : after 0x0000A183 (boot 0x80000000 [(1, 0x8000FFFC)] [] [(0x8000FFFC, [1, 0, 0, 2])]) (rp 3) = some (0x02000001, 0x80000004) := by decide
/-- V90. -/
theorem test_lbu : after 0x0000C183 (data 0x80001000) (rp 3) = some (0x00000080, 0x80000004) := by decide
/-- V93. -/
theorem test_lhu : after 0x0020D183 (data 0x80001000) (rp 3) = some (0x00008000, 0x80000004) := by decide
/-- V106. -/
theorem test_sb : after 0x00208023 (toStore 0x80001000 0x12345678) (bytesAt 0x80000FFF 3) = some [0, 0x78, 0] := by decide
/-- V114. -/
theorem test_sb_last_byte : after 0x00208023 (toStore 0x8000FFFF 0xABCD) (bytesAt 0x8000FFFF 1) = some [0xCD] := by decide
/-- V107. -/
theorem test_sh : after 0x00209123 (toStore 0x80001000 0x12345678) (bytesAt 0x80001001 4) = some [0, 0x78, 0x56, 0] := by decide
/-- V109: misaligned. -/
theorem test_sw : after 0x0020A1A3 (toStore 0x80001000 0x12345678) (bytesAt 0x80001002 6) =
    some [0, 0x78, 0x56, 0x34, 0x12, 0] := by decide
/-- V102. -/
theorem test_lw_crosses_the_end : stopOf 0x0000A183 (data 0x8000FFFE) = some (.loadError 0x8000FFFE 0x80000000) := by decide
/-- V105. -/
theorem test_lw_wraps : stopOf 0xFFF0A183 (data 0) = some (.loadError 0xFFFFFFFF 0x80000000) := by decide
/-- V113. -/
theorem test_sh_crosses_the_end : stopOf 0x00209023 (toStore 0x8000FFFF 0xABCD) =
    some (.storeError 0x8000FFFF 0x80000000) := by decide

/-- V115. -/
theorem test_csrrw : after 0x340312F3 (withCsr 0x340 0x11 0x22) (fun t => (t.readReg 5, t.readCsr 0x340)) =
    some (0x11, 0x22) := by decide
/-- V116: rd = rs1. -/
theorem test_csrrw_swaps : after 0x340292F3 ((withCsr 0x340 0x11 0).writeReg 5 0x22) (fun t => (t.readReg 5, t.readCsr 0x340)) =
    some (0x11, 0x22) := by decide
/-- V118. -/
theorem test_csrrs : after 0x340322F3 (withCsr 0x340 0xF0 0x0F) (fun t => (t.readReg 5, t.readCsr 0x340)) =
    some (0xF0, 0xFF) := by decide
/-- V122. -/
theorem test_csrrc : after 0x340332F3 (withCsr 0x340 0xFF 0x0F) (fun t => (t.readReg 5, t.readCsr 0x340)) =
    some (0xFF, 0xF0) := by decide
/-- V124. -/
theorem test_csrrwi : after 0x340FD2F3 (withCsr 0x340 0xFFFFFFFF 0) (fun t => (t.readReg 5, t.readCsr 0x340)) =
    some (0xFFFFFFFF, 0x1F) := by decide
/-- V126. -/
theorem test_csrrsi : after 0x3400E2F3 (withCsr 0x340 0xF0 0) (fun t => (t.readReg 5, t.readCsr 0x340)) =
    some (0xF0, 0xF1) := by decide
/-- V128. -/
theorem test_csrrci : after 0x340872F3 (withCsr 0x340 0xFF 0) (fun t => (t.readReg 5, t.readCsr 0x340)) =
    some (0xFF, 0xEF) := by decide
/-- V129. -/
theorem test_csr_highest : after 0xFFF312F3 (withCsr 0x340 0 0xCAFEF00D) (fun t => (t.readReg 5, t.readCsr 0xFFF)) =
    some (0x0, 0xCAFEF00D) := by decide

/-- V131. -/
theorem test_ecall : after 0x00000073 (boot 0x80000000 [] [(0x305, 0x80000103), (0x300, 0x8)] []) trapView =
    some [0x1880, 0x80000000, 11, 0x80000000, 0x80000100] := by decide
/-- V135. -/
theorem test_ecall_nested : after 0x00000073 (boot 0x80000100 [] [(0x305, 0x80000100), (0x300, 0x1880),
    (0x341, 0x80000040), (0x342, 3), (0x343, 0x80000040)] []) trapView =
    some [0x1800, 0x80000100, 11, 0x80000100, 0x80000100] := by decide
/-- V136. -/
theorem test_ebreak : after 0x00100073 (boot 0x80000000 [] [(0x305, 0x80000200)] []) trapView =
    some [0x1800, 0x80000000, 3, 0x80000000, 0x80000200] := by decide
/-- V137. -/
theorem test_uret : after 0x00200073 (boot 0x80000000 [] [(0x341, 0x80000104), (0x300, 0x1880)] []) trapView =
    some [0x88, 0x80000104, 0, 0, 0x80000104] := by decide
/-- V140: MEPC unmasked. -/
theorem test_uret_odd : after 0x00200073 (boot 0x80000000 [] [(0x341, 0x80000105)] []) trapView =
    some [0, 0x80000105, 0, 0, 0x80000105] := by decide
/-- V139: MPIE 0 clears MIE. -/
theorem test_sret : after 0x10200073 (boot 0x80000000 [] [(0x341, 0x80000104), (0x300, 0x1808)] []) trapView =
    some [0, 0x80000104, 0, 0, 0x80000104] := by decide
/-- V142: no return. -/
theorem test_mret : after 0x30200073 (boot 0x80000000 [] [(0x341, 0x80000104), (0x300, 0x1880)] []) trapView =
    some [0x1880, 0x80000104, 0, 0, 0x80000004] := by decide
/-- V143. -/
theorem test_wfi : after 0x10500073 (regs []) id =
    some (((regs []).withFetchWord 32 0x10500073).withPc 0x80000004 |>.withNextPc 0x80000004) := by decide
/-- V145: FENCE.TSO. -/
theorem test_fence : after 0x8330000F (regs []) id =
    some (((regs []).withFetchWord 32 0x8330000F).withPc 0x80000004 |>.withNextPc 0x80000004) := by decide
/-- V146. -/
theorem test_fenceI : after 0x0000100F (regs []) id =
    some (((regs []).withFetchWord 32 0x0000100F).withPc 0x80000004 |>.withNextPc 0x80000004) := by decide
/-- V148. -/
theorem test_sfenceVma : after 0x12208073 (regs []) id =
    some (((regs []).withFetchWord 32 0x12208073).withPc 0x80000004 |>.withNextPc 0x80000004) := by decide
/-- R261, R301. -/
theorem test_fetch_error : stopOf 0x13 (boot 0 [] [] []) = some (.fetchError 0) := by decide
/-- V1. -/
theorem test_decode_error : stopOf 0 (regs []) = some (.decodeError 0 0x80000000) := by decide

/-! ## The run loop -/

/-- The corrected end-to-end image of spec/95_test_vectors.md L1.9. -/
def passImage : List Byte :=
  bytesOfWord 0x00100093 ++ bytesOfWord 0x800014B7 ++ bytesOfWord 0x0014A023

/-- P5's image: it stores 7 to the host word. -/
def failImage : List Byte :=
  bytesOfWord 0x00700093 ++ bytesOfWord 0x800014B7 ++ bytesOfWord 0x0014A023

/-- L1.9 corrected. -/
theorem test_run_pass : (run exampleParams passImage 100).1 = .pass := by decide
/-- L1.9 with budget 0. -/
theorem test_run_budget_zero : (run exampleParams passImage 0).1 = .exhausted 0 := by decide
/-- P5. -/
theorem test_run_fail : (run exampleParams failImage 100).1 = .fail 3 := by decide
/-- The empty image (R303). -/
theorem test_run_empty_image :
    (run exampleParams [] 5).1 = .fatal (.decodeError 0 0x80000000) := by decide
/-- L1.9 literal: its store to address 0 halts in cycle 2. -/
theorem test_run_store_error :
    (run exampleParams (bytesOfWord 0x00100093 ++ bytesOfWord 0x00102023) 100).1 =
      .fatal (.storeError 0 0x80000004) := by decide
/-- An image larger than the store (R303). -/
theorem test_run_load_failure :
    run { memSize := 4, hostIoAddr := 0x80000000 } [0, 0, 0, 0, 0] 5 = (.loadFailure, none) := by
  decide

/-! ## Witnesses: for each statement with hypotheses, a state and operands that meet them all -/

theorem witness_DecodeOfEncode : (Instr.beq 1 2 0xFFFFF000).wf = true ∧
    (Instr.jal 1 0x000FFFFE).wf = true ∧ (Instr.sw 1 2 0xFFFFF800).wf = true := by decide

/-- Also the witness of the operands statement. -/
theorem witness_EncodeOfDecode : decode 0x000000F3 = some .ecall ∧
    decode 0xFE209CE3 = some (.bne 1 2 0xFFFFFFF8) := by decide

theorem witness_ImmediatesIAndS :
    (0xFFF00293 : Word).extractLsb' 20 12 = BitVec.ofInt 12 (-1) ∧
    (0x7FF00293 : Word).extractLsb' 20 12 = 2047 := by decide

theorem witness_DecodeBytes : decode 0x00000013 = some (.addi 0 0 0) ∧ decode 0 = none := by decide

/-- NOP at the reset address, and a load there that halts. -/
def atNop : State := (regs []).withFetchWord 32 0x00000013
def atBadLoad : State := (regs []).withFetchWord 32 0x00002003

theorem witness_StepRuns_next : atNop.status = .running ∧ busFetch atNop = some 0x00000013 ∧
    decode 0x00000013 = some (.addi 0 0 0) ∧
    exec (.addi 0 0 0) { atNop with nextPc := atNop.pc + 4 } =
      .next { atNop with nextPc := 0x80000004 } :=
  ⟨by decide, by decide, by decide, rfl⟩

theorem witness_StepRuns_fault : atBadLoad.status = .running ∧
    busFetch atBadLoad = some 0x00002003 ∧ decode 0x00002003 = some (.lw 0 0 0) ∧
    exec (.lw 0 0 0) { atBadLoad with nextPc := atBadLoad.pc + 4 } =
      .fault (.loadError 0 0x80000000) :=
  ⟨by decide, by decide, by decide, rfl⟩

/-- The first and the last word of the store. -/
theorem witness_FetchReads : InStore (boot 0x80000000 [] [] []) 0x80000000 4 ∧
    InStore (boot 0x8000FFFC [] [] []) 0x8000FFFC 4 :=
  ⟨⟨by decide, by decide⟩, ⟨by decide, by decide⟩⟩

/-- One byte below the store, and one byte past the last word. -/
theorem witness_FetchOutside :
    (∃ s : State, s.pc = 0x7FFFFFFF ∧ s.status = .running ∧ ¬InStore s s.pc 4) ∧
    ∃ s : State, s.pc = 0x8000FFFD ∧ s.status = .running ∧ ¬InStore s s.pc 4 :=
  ⟨⟨boot 0x7FFFFFFF [] [] [], rfl, rfl, fun h => absurd h.1 (by decide)⟩,
   ⟨boot 0x8000FFFD [] [] [], rfl, rfl, fun h => absurd h.2 (by decide)⟩⟩

theorem witness_Undecodable :
    (regs []).status = .running ∧ busFetch (regs []) = some 0 ∧ decode 0 = none := by decide

theorem witness_OutOfRange_load : atBadLoad.status = .running ∧
    busFetch atBadLoad = some 0x00002003 ∧ decode 0x00002003 = some (.lw 0 0 0) ∧
    accessOf (.lw 0 0 0) = some (0, 0, 4) ∧ ¬InStore atBadLoad (atBadLoad.readReg 0 + 0) 4 :=
  ⟨by decide, by decide, by decide, by decide, fun h => absurd h.1 (by decide)⟩

/-- A halfword store whose second byte is past the end. -/
theorem witness_OutOfRange_store :
    let s := (toStore 0x8000FFFF 0xABCD).withFetchWord 32 0x00209023
    s.status = .running ∧ busFetch s = some 0x00209023 ∧ decode 0x00209023 = some (.sh 1 2 0) ∧
      accessOf (.sh 1 2 0) = some (1, 0, 2) ∧ ¬InStore s (s.readReg 1 + 0) 2 :=
  ⟨by decide, by decide, by decide, by decide, fun h => absurd h.2 (by decide)⟩

/-- Each way a step can stop: halted already, fetch, decode, load. -/
theorem witness_StepStops :
    step ((regs []).withStatus (.fatal (.fetchError 4))) = .fault (.fetchError 4) ∧
    step (boot 0 [] [] []) = .fault (.fetchError 0) ∧
    step (regs []) = .fault (.decodeError 0 0x80000000) ∧
    step atBadLoad = .fault (.loadError 0 0x80000000) := ⟨rfl, rfl, rfl, rfl⟩

/-- A state no reset leaves, with registers, CSRs and bytes, that meets the invariant and steps. -/
theorem witness_StepKeepsTheInvariant :
    let s := boot 0x80000010 [(1, 0x80001003), (2, 7)] [(0x300, 8), (0xFFF, 1)]
      [(0x80000010, bytesOfWord 0x0020A023)]
    s.Inv ∧ ∃ t, step s = .next t ∧ t.byteAt 0x80001003 = 7 := by
  refine ⟨by decide, ?_⟩
  exact ⟨_, rfl, by decide⟩

theorem witness_RunsFromReset : exampleParams.valid = true ∧
    ∃ s, resetWith exampleParams passImage = some s :=
  ⟨by decide, _, rfl⟩

theorem witness_SafeRun : atNop.status = .running ∧ SafeRun 1 atNop :=
  ⟨by decide, _, rfl, trivial⟩

/-- The empty image, and an image that fills the store. -/
theorem witness_ResetLeaves : ([] : List Byte).length ≤ exampleParams.memSize ∧
    ([1, 2, 3, 4] : List Byte).length ≤ (⟨4, 0x80000000⟩ : Params).memSize := by decide

theorem witness_RunEnds_loadFailure :
    (⟨4, 0x80000000⟩ : Params).memSize < ([0, 0, 0, 0, 0] : List Byte).length := by decide

/-- The corrected image loaded: two quiet cycles, then the host word is 1. -/
def passStart : State := (State.reset.withParams exampleParams).withMem (loadBytes [] memBase passImage)
/-- P5's image loaded: two quiet cycles, then the host word is 7. -/
def failStart : State := (State.reset.withParams exampleParams).withMem (loadBytes [] memBase failImage)

theorem witness_RunEnds_pass : resetWith exampleParams passImage = some passStart ∧
    QuietFor 2 passStart ∧ (cycle^[3] passStart).status = .running ∧
    hostWord (cycle^[3] passStart) = 1 := by
  refine ⟨rfl, ?_, by decide, by decide⟩
  unfold QuietFor
  decide

theorem witness_RunEnds_fail : resetWith exampleParams failImage = some failStart ∧
    QuietFor 2 failStart ∧ (cycle^[3] failStart).status = .running ∧
    hostWord (cycle^[3] failStart) ≠ 0 ∧ hostWord (cycle^[3] failStart) ≠ 1 := by
  refine ⟨rfl, ?_, by decide, by decide, by decide⟩
  unfold QuietFor
  decide

theorem witness_RunEnds_fatal : resetWith exampleParams [] = some State.reset ∧
    QuietFor 0 State.reset ∧
    (cycle^[1] State.reset).status = .fatal (.decodeError 0 0x80000000) := by
  refine ⟨rfl, ?_, by decide⟩
  unfold QuietFor
  decide

/-- Also meets the hypothesis of the frame statements over `exec i s = .next t`. -/
theorem witness_RegisterZero : destOf (.lui 0 0x12345000) = some 0 ∧
    exec (.lui 0 0x12345000) (two 5 6) = .next (two 5 6) := ⟨rfl, rfl⟩

theorem witness_OnlyTheDestination : ∃ t, exec (.add 3 1 2) (two 5 6) = .next t ∧
    t.readReg 3 = 11 ∧ destOf (.add 3 1 2) ≠ some 1 :=
  ⟨_, rfl, by decide, by decide⟩

theorem witness_OnlyCsrUse : familyOf (.sw 1 2 0) ≠ .csr ∧ familyOf (.sw 1 2 0) ≠ .trap ∧
    familyOf (.csrrw 0 0 0xC00) = .csr := by decide

theorem witness_OnlyMemoryUse : familyOf .ecall ≠ .load ∧ familyOf .ecall ≠ .store ∧
    familyOf (.lb 3 1 0) = .load ∧
    ∃ t, exec (.lb 3 1 0) (data 0x80001000) = .next t ∧ t.readReg 3 = 0xFFFFFF80 :=
  ⟨by decide, by decide, by decide, _, rfl, by decide⟩

/-- Also meets the hypothesis of the statement on `pc`, the status and the parameters. -/
theorem witness_Sequential : (∃ t, step atNop = .next t ∧ t.pc = 0x80000004) ∧
    busFetch atNop = some 0x00000013 ∧ decode 0x00000013 = some (.addi 0 0 0) ∧
    familyOf (.addi 0 0 0) ≠ .control ∧ familyOf (.addi 0 0 0) ≠ .trap :=
  ⟨⟨_, rfl, by decide⟩, by decide, by decide, by decide, by decide⟩

theorem witness_OnlyEcallAndEbreak : (∃ t, exec .ecall (regs []) = .next t ∧ t.readCsr 0x342 = 11) ∧
    (∃ t, exec .ebreak (regs []) = .next t ∧ t.readCsr 0x342 = 3) ∧
    familyOf .ecall ≠ .csr ∧ familyOf .ebreak ≠ .csr :=
  ⟨⟨_, rfl, by decide⟩, ⟨_, rfl, by decide⟩, by decide, by decide⟩

/-- An instruction with no access; the last word; one byte past it. -/
theorem witness_OnlyOutOfRange : accessOf .wfi = none ∧ accessOf (.lw 3 1 0) = some (1, 0, 4) ∧
    InStore (data 0x8000FFFC) ((data 0x8000FFFC).readReg 1 + 0) 4 ∧
    ¬InStore (data 0x8000FFFD) ((data 0x8000FFFD).readReg 1 + 0) 4 :=
  ⟨by decide, by decide, ⟨by decide, by decide⟩, fun h => absurd h.2 (by decide)⟩

theorem witness_Lui : (Instr.lui 5 0xFFFFF000).wf = true := by decide

/-- Both sides of each branch's condition. -/
theorem witness_Branches :
    (∃ s : State, s.readReg 1 = s.readReg 2) ∧ (∃ s : State, s.readReg 1 ≠ s.readReg 2) ∧
    (∃ s : State, signed (s.readReg 1) < signed (s.readReg 2)) ∧
    (∃ s : State, signed (s.readReg 1) ≥ signed (s.readReg 2)) ∧
    (∃ s : State, unsigned (s.readReg 1) < unsigned (s.readReg 2)) ∧
    ∃ s : State, unsigned (s.readReg 1) ≥ unsigned (s.readReg 2) :=
  ⟨⟨two 7 7, by decide⟩, ⟨two 7 8, by decide⟩, ⟨two 0xFFFFFFFF 1, by decide⟩,
   ⟨two 1 1, by decide⟩, ⟨two 1 2, by decide⟩, ⟨two 0xFFFFFFFF 1, by decide⟩⟩

/-- Loads and stores at the first byte of the store, at the last place of each width, and one byte
outside it. -/
theorem witness_LoadsAndStores :
    InStore (data 0x80000000) ((data 0x80000000).readReg 1 + 0) 1 ∧
    InStore (data 0x8000FFFF) ((data 0x8000FFFF).readReg 1 + 0) 1 ∧
    InStore (data 0x8000FFFE) ((data 0x8000FFFE).readReg 1 + 0) 2 ∧
    InStore (data 0x8000FFFC) ((data 0x8000FFFC).readReg 1 + 0) 4 ∧
    ¬InStore (data 0x7FFFFFFF) ((data 0x7FFFFFFF).readReg 1 + 0) 1 ∧
    ¬InStore (data 0x8000FFFF) ((data 0x8000FFFF).readReg 1 + 0) 2 ∧
    ¬InStore (data 0x8000FFFD) ((data 0x8000FFFD).readReg 1 + 0) 4 :=
  ⟨⟨by decide, by decide⟩, ⟨by decide, by decide⟩, ⟨by decide, by decide⟩, ⟨by decide, by decide⟩,
   fun h => absurd h.1 (by decide), fun h => absurd h.2 (by decide), fun h => absurd h.2 (by decide)⟩

theorem witness_StoreThenLoad :
    (∃ t, exec (.sw 1 2 0) (toStore 0x8000FFFC 0x12345678) = .next t ∧ t.byteAt 0x8000FFFF = 0x12) ∧
    (∃ t, exec (.sh 1 2 0) (toStore 0x8000FFFE 0x12345678) = .next t ∧ t.byteAt 0x8000FFFF = 0x56) ∧
    ∃ t, exec (.sb 1 2 0) (toStore 0x8000FFFF 0x12345678) = .next t ∧ t.byteAt 0x8000FFFF = 0x78 :=
  ⟨⟨_, rfl, by decide⟩, ⟨_, rfl, by decide⟩, ⟨_, rfl, by decide⟩⟩

theorem witness_MixedWidth : exampleParams.valid = true ∧
    ∃ t, memWrite (regs []) 0x8000FFFC .word 0x11223344 = some t ∧ t.byteAt 0x8000FFFD = 0x33 :=
  ⟨by decide, _, rfl, by decide⟩

/-- The same memory, seen from the stored address. -/
theorem witness_StoreIsSeen : ∃ t, exec (.sw 1 2 0) (toStore 0x80001000 0x13) = .next t ∧
    (t.withPc 0x80001000).mem = t.mem ∧ (t.withPc 0x80001000).params = t.params ∧
    (t.withPc 0x80001000).pc = (toStore 0x80001000 0x13).readReg 1 + 0 :=
  ⟨_, rfl, rfl, rfl, by decide⟩

theorem witness_Mtvec : ∃ t, exec (.csrrw 0 6 0x305) (withCsr 0x305 0 0x80000103) = .next t ∧
    t.readCsr 0x305 = 0x80000103 ∧ (commitPc t).csr = t.csr :=
  ⟨_, rfl, by decide, rfl⟩

/-- Also meets the hypotheses of the nesting statement, its second ECALL completing. -/
theorem witness_TrapReturn : ∃ t, exec .ecall (boot 0x80000000 [] [(0x300, 8)] []) = .next t ∧
    t.readCsr 0x300 = 0x1880 ∧ (commitPc t).csr = t.csr ∧ ∃ v, exec .ecall (commitPc t) = .next v :=
  ⟨_, rfl, by decide, rfl, _, rfl⟩


end Sys2Proof.Tests
end

/-!
The invariant along a run: each state update keeps it, so every completed instruction, step and
cycle keeps it; reset with an image establishes it. With it, two facts about `exec`: it writes
neither `pc`, the status nor the parameters, and it refuses no instruction.
-/

namespace Sys2Proof.Machine

/-! ## The updates keep the invariant -/

section
variable {s : State}

theorem State.Inv.withPc (h : s.Inv) (v : Word) : (s.withPc v).Inv := h

theorem State.Inv.withNextPc (h : s.Inv) (v : Word) : (s.withNextPc v).Inv := h

theorem State.Inv.withStatus (h : s.Inv) (v : Status) : (s.withStatus v).Inv := h

/-- No register write reaches the slot of x0 (R24). -/
@[simp] theorem State.writeReg_x_zero (s : State) (r : RegIdx) (v : Word) :
    (s.writeReg r v).x[0] = s.x[0] := by
  unfold State.writeReg
  split
  · rfl
  · rename_i hr
    have hne : r.toNat ≠ 0 := fun h => hr (BitVec.eq_of_toNat_eq h)
    simp [hne]

theorem State.Inv.writeReg (h : s.Inv) (r : RegIdx) (v : Word) : (s.writeReg r v).Inv := by
  simpa [State.Inv] using h

theorem State.Inv.writeCsr (h : s.Inv) (a : CsrIdx) (v : Word) : (s.writeCsr a v).Inv := by
  obtain ⟨hp, hm, hc, hx⟩ := h
  exact ⟨hp, hm, wf_csr_set a v hc, hx⟩

/-- A write of `n` bytes that the bus finds in range keeps the invariant. -/
theorem State.Inv.withMem_writeLE (h : s.Inv) {a : Word} {n : Nat} (v : Word)
    (hr : inRange s.params a n = true) : (s.withMem (writeLE s.mem a.toNat n v)).Inv := by
  obtain ⟨hp, hm, hc, hx⟩ := h
  obtain ⟨hlo, hhi⟩ := (inRange_iff _ _ _).1 hr
  exact ⟨hp, wfIn_writeLE v hlo hhi hm, hc, hx⟩

/-- A routed trap is CSR writes and a `next_pc` write. -/
theorem State.Inv.routeTrap (h : s.Inv) (tr : Trap) : (routeTrap tr s).Inv := by
  cases tr with
  | exception c p v =>
    exact ((((h.writeCsr _ _).writeCsr _ _).writeCsr _ _).writeCsr _ _).withNextPc _
  | ret p => exact (h.writeCsr _ _).withNextPc _

end

/-! ## Instructions, steps and cycles keep the invariant -/

theorem exec_keeps_inv {i : Instr} {s t : State} (h : s.Inv) (he : exec i s = .next t) : t.Inv := by
  rcases exec_next_cases he with ⟨npc, rd, v, rfl⟩ | ⟨a, w, v, hr, rfl⟩ | ⟨a, v, rd, u, rfl⟩ | ⟨tr, rfl⟩
  · exact (h.withNextPc npc).writeReg rd v
  · exact h.withMem_writeLE v hr
  · exact (h.writeCsr a v).writeReg rd u
  · exact h.routeTrap tr

theorem step_keeps_inv {s t : State} (h : s.Inv) (hs : step s = .next t) : t.Inv := by
  obtain ⟨-, w, i, u, -, -, he, rfl⟩ := step_next_cases hs
  have hu : u.Inv := exec_keeps_inv (h.withNextPc _) he
  exact hu.withPc _

/-- A completed cycle is a step; any other changes at most the status. -/
theorem cycle_keeps_inv {s : State} (h : s.Inv) : (cycle s).Inv := by
  unfold cycle
  split
  · exact step_keeps_inv h ‹_›
  · exact h.withStatus _
  · exact h

/-- Reset with an image that fits starts from the invariant. -/
theorem resetWith_inv {p : Params} {image : List Byte} {s : State} (hp : p.valid = true)
    (hs : resetWith p image = some s) : s.Inv := by
  unfold resetWith at hs
  split at hs
  · rename_i hfit
    cases hs
    have hmem : Memory.wfIn p.memSize (loadBytes [] memBase image) = true :=
      wfIn_loadBytes image (Nat.le_refl _) (Nat.add_le_add_left hfit _) rfl
    exact ⟨hp, hmem, rfl, rfl⟩
  · cases hs

/-! ## What `exec` leaves to the cycle, and that it refuses nothing -/

@[simp] theorem routeTrap_pc (tr : Trap) (s : State) : (routeTrap tr s).pc = s.pc := by
  cases tr <;> rfl

@[simp] theorem routeTrap_status (tr : Trap) (s : State) : (routeTrap tr s).status = s.status := by
  cases tr <;> rfl

@[simp] theorem routeTrap_params (tr : Trap) (s : State) : (routeTrap tr s).params = s.params := by
  cases tr <;> rfl

theorem exec_sameControl {i : Instr} {s t : State} (he : exec i s = .next t) : SameControl s t := by
  rcases exec_next_cases he with ⟨npc, rd, v, rfl⟩ | ⟨a, w, v, -, rfl⟩ | ⟨a, v, rd, u, rfl⟩ | ⟨tr, rfl⟩
  all_goals simp [SameControl]

theorem next_ne_refused (s : State) (r : Refusal) :
    (.next s : Host.Outcome State Fault Refusal) ≠ .refused r :=
  nofun

theorem loadTo_ne_refused (w : Width) (ext : Word → Word) (rd rs1 : RegIdx) (imm : Word) (s : State)
    (r : Refusal) : loadTo w ext rd rs1 imm s ≠ .refused r := by
  rcases loadTo_cases w ext rd rs1 imm s with ⟨-, h⟩ | ⟨-, h⟩ <;> simp [h]

theorem storeFrom_ne_refused (w : Width) (rs1 rs2 : RegIdx) (imm : Word) (s : State) (r : Refusal) :
    storeFrom w rs1 rs2 imm s ≠ .refused r := by
  rcases storeFrom_cases w rs1 rs2 imm s with ⟨-, h⟩ | ⟨-, h⟩ <;> simp [h]

/-- Loads and stores complete or fault; every other instruction completes. -/
theorem exec_ne_refused (i : Instr) (s : State) (r : Refusal) : exec i s ≠ .refused r := by
  cases i
  case lb | lh | lw | lbu | lhu => exact loadTo_ne_refused _ _ _ _ _ s r
  case sb | sh | sw => exact storeFrom_ne_refused _ _ _ _ s r
  all_goals exact next_ne_refused _ r

theorem commitOutcome_eq_refused {o : Host.Outcome State Fault Refusal} {r : Refusal} :
    commitOutcome o = .refused r ↔ o = .refused r := by
  cases o <;> simp [commitOutcome]

theorem step_ne_refused (s : State) (r : Refusal) : step s ≠ .refused r := by
  cases hs : s.status with
  | fatal q => simp [step_of_fatal hs]
  | running =>
    cases hw : busFetch s with
    | none => simp [step, hs, hw]
    | some w =>
      cases hi : decode w with
      | none => simp [step, hs, hw, hi]
      | some i =>
        rw [step_of_decode hs hw hi, Ne, commitOutcome_eq_refused]
        exact exec_ne_refused i _ r

/-! ## The obligations -/

/-- Settles O18: a step begins the cycle, executes and commits, and each of the three keeps the
invariant. -/
theorem stepKeepsTheInvariant : Obligations.StepKeepsTheInvariant :=
  fun _ _ => step_keeps_inv

/-- Settles O16: no arm of `exec` refuses, and nothing else in a step can. -/
theorem stepNeverRefuses : Obligations.StepNeverRefuses :=
  step_ne_refused

/-- Settles O20, by induction on the number of cycles. -/
theorem runsFromResetMeetTheInvariant : Obligations.RunsFromResetMeetTheInvariant := by
  intro p image s hp hs n
  exact Function.Iterate.rec State.Inv (resetWith_inv hp hs) (fun _ => cycle_keeps_inv) n

/-- Settles O30, over the kinds of effect a completed instruction can have. -/
theorem execKeepsPcStatusAndParameters : Obligations.ExecKeepsPcStatusAndParameters :=
  fun _ _ _ => exec_sameControl

end Sys2Proof.Machine

/-!
The state's parts and who uses them (spec/10_state.md): the shape of every instruction's effect, said
once, and what follows from it about halts, registers and `next_pc`; that `exec` commutes with a change
of a part of the state it does not use; when a run is safe; the MSTATUS accessors and MTVEC.
-/

namespace Sys2Proof.Machine

/-! ## The shape of every instruction -/

/-- The effect of `i` on `s` is one of the shared shapes of Sys2Proof/Machine/Operands.lean, a routed
trap or nothing, on the operands that `familyOf`, `destOf` and `accessOf` state. -/
inductive ExecShape (i : Instr) (s : State) : Prop where
  | result (rd : RegIdx) (v : Word) (hf : familyOf i = .integer) (hd : destOf i = some rd)
      (he : exec i s = writeResult rd v s)
  | jump (rd : RegIdx) (target : Word) (hf : familyOf i = .control) (hd : destOf i = some rd)
      (he : exec i s = jumpAndLink rd target s)
  | branch (taken : Bool) (imm : Word) (hf : familyOf i = .control)
      (he : exec i s = branchIf taken imm s)
  | load (w : Width) (ext : Word → Word) (rd rs1 : RegIdx) (imm : Word) (hf : familyOf i = .load)
      (hd : destOf i = some rd) (ha : accessOf i = some (rs1, imm, widthBytes w))
      (he : exec i s = loadTo w ext rd rs1 imm s)
  | store (w : Width) (rs1 rs2 : RegIdx) (imm : Word) (hf : familyOf i = .store)
      (ha : accessOf i = some (rs1, imm, widthBytes w)) (he : exec i s = storeFrom w rs1 rs2 imm s)
  | csr (rd : RegIdx) (a : CsrIdx) (new : Word → Word) (hf : familyOf i = .csr)
      (hd : destOf i = some rd) (he : exec i s = csrUpdate rd a new s)
  | trap (tr : Trap) (hf : familyOf i = .trap) (he : exec i s = .next (routeTrap tr s))
  | noop (hf : familyOf i = .noop) (he : exec i s = .next s)

theorem exec_shape (i : Instr) (s : State) : ExecShape i s := by
  cases i
  case jal | jalr => exact .jump _ _ rfl rfl rfl
  case beq | bne | blt | bge | bltu | bgeu => exact .branch _ _ rfl rfl
  case lb | lbu => exact .load .byte _ _ _ _ rfl rfl rfl rfl
  case lh | lhu => exact .load .half _ _ _ _ rfl rfl rfl rfl
  case lw => exact .load .word _ _ _ _ rfl rfl rfl rfl
  case sb => exact .store .byte _ _ _ rfl rfl rfl
  case sh => exact .store .half _ _ _ rfl rfl rfl
  case sw => exact .store .word _ _ _ rfl rfl rfl
  case csrrw rd rs1 a => exact .csr rd a (fun _ => s.readReg rs1) rfl rfl rfl
  case csrrs rd rs1 a => exact .csr rd a (fun old => old ||| s.readReg rs1) rfl rfl rfl
  case csrrc rd rs1 a => exact .csr rd a (fun old => old &&& ~~~(s.readReg rs1)) rfl rfl rfl
  case csrrwi rd z a => exact .csr rd a (fun _ => zimmWord z) rfl rfl rfl
  case csrrsi rd z a => exact .csr rd a (fun old => old ||| zimmWord z) rfl rfl rfl
  case csrrci rd z a => exact .csr rd a (fun old => old &&& ~~~(zimmWord z)) rfl rfl rfl
  case ecall | ebreak | uret | sret => exact .trap _ rfl rfl
  case fence | fenceI | wfi | mret | sfenceVma => exact .noop rfl rfl
  all_goals exact .result _ _ rfl rfl rfl

/-! ## What a load and a store can answer -/

/-- An access the bus finds out of range is not in the store (R52). -/
theorem not_inStore_of_inRange_false {s : State} {a : Word} {n : Nat}
    (h : inRange s.params a n = false) : ¬InStore s a n := by
  simp [inStore_iff, h]

section
variable {w : Width} {ext : Word → Word} {rd rs1 rs2 : RegIdx} {imm : Word} {s t : State} {r : Fault}

theorem loadTo_eq_next (h : loadTo w ext rd rs1 imm s = .next t) : ∃ v, t = s.writeReg rd v := by
  rcases loadTo_cases w ext rd rs1 imm s with ⟨-, he⟩ | ⟨-, he⟩
  · cases he.symm.trans h
    exact ⟨_, rfl⟩
  · cases he.symm.trans h

/-- A load that halts had its access out of the store (R191). -/
theorem loadTo_eq_fault (h : loadTo w ext rd rs1 imm s = .fault r) :
    ¬InStore s (s.readReg rs1 + imm) (widthBytes w) ∧ r = .loadError (s.readReg rs1 + imm) s.pc := by
  rcases loadTo_cases w ext rd rs1 imm s with ⟨-, he⟩ | ⟨hr, he⟩
  · cases he.symm.trans h
  · cases he.symm.trans h
    exact ⟨not_inStore_of_inRange_false hr, rfl⟩

theorem storeFrom_eq_next (h : storeFrom w rs1 rs2 imm s = .next t) : ∃ m, t = s.withMem m := by
  rcases storeFrom_cases w rs1 rs2 imm s with ⟨-, he⟩ | ⟨-, he⟩
  · cases he.symm.trans h
    exact ⟨_, rfl⟩
  · cases he.symm.trans h

/-- A store that halts had its access out of the store (R191). -/
theorem storeFrom_eq_fault (h : storeFrom w rs1 rs2 imm s = .fault r) :
    ¬InStore s (s.readReg rs1 + imm) (widthBytes w) ∧ r = .storeError (s.readReg rs1 + imm) s.pc := by
  rcases storeFrom_cases w rs1 rs2 imm s with ⟨-, he⟩ | ⟨hr, he⟩
  · cases he.symm.trans h
  · cases he.symm.trans h
    exact ⟨not_inStore_of_inRange_false hr, rfl⟩

end

/-! ## Facts about every instruction, shape by shape -/

section
variable {i : Instr} {s t : State}

/-- The one way an instruction can halt: its access is out of the store (R191). -/
theorem exec_fault_cases {r : Fault} (h : exec i s = .fault r) :
    ∃ base imm n, accessOf i = some (base, imm, n) ∧ ¬InStore s (s.readReg base + imm) n ∧
      r = accessFault i (s.readReg base + imm) s.pc := by
  cases exec_shape i s with
  | load w ext rd rs1 imm hf hd ha he =>
    obtain ⟨hn, rfl⟩ := loadTo_eq_fault (he.symm.trans h)
    exact ⟨rs1, imm, _, ha, hn, by simp [accessFault, hf]⟩
  | store w rs1 rs2 imm hf ha he =>
    obtain ⟨hn, rfl⟩ := storeFrom_eq_fault (he.symm.trans h)
    exact ⟨rs1, imm, _, ha, hn, by simp [accessFault, hf]⟩
  | result _ _ _ _ he | jump _ _ _ _ he | branch _ _ _ he | csr _ _ _ _ _ he | trap _ _ he
  | noop _ he => cases he.symm.trans h

/-- A completed instruction changes no register, or writes its destination. -/
theorem exec_next_regs (h : exec i s = .next t) :
    SameRegs s t ∨ ∃ rd v, destOf i = some rd ∧ RegsAfter s t rd v := by
  cases exec_shape i s with
  | result rd _ _ hd he | jump rd _ _ hd he | csr rd _ _ _ hd he =>
    cases he.symm.trans h
    exact .inr ⟨rd, _, hd, regsAfter_writeReg rd _ fun _ => rfl⟩
  | load _ _ rd _ _ _ hd _ he =>
    obtain ⟨v, rfl⟩ := loadTo_eq_next (he.symm.trans h)
    exact .inr ⟨rd, v, hd, regsAfter_writeReg rd v fun _ => rfl⟩
  | store _ _ _ _ _ _ he =>
    obtain ⟨m, rfl⟩ := storeFrom_eq_next (he.symm.trans h)
    exact .inl fun _ => rfl
  | branch taken _ _ he =>
    cases he.symm.trans h
    exact .inl fun _ => by cases taken <;> rfl
  | trap tr _ he =>
    cases he.symm.trans h
    exact .inl fun _ => by cases tr <;> rfl
  | noop _ he =>
    cases he.symm.trans h
    exact .inl fun _ => rfl

/-- A write of x0 changes no register (R24). -/
theorem RegsAfter.sameRegs_of_zero {v : Word} (h : RegsAfter s t 0 v) : SameRegs s t := by
  intro r
  rw [h r]
  by_cases hr : r = 0
  · rw [if_pos hr, hr]
    exact s.readReg_zero.symm
  · rw [if_neg hr, if_neg hr]

/-- Only control transfers and traps write `next_pc` (R130, R192, R211). -/
theorem exec_next_nextPc (h : exec i s = .next t) (hc : familyOf i ≠ .control)
    (ht : familyOf i ≠ .trap) : t.nextPc = s.nextPc := by
  cases exec_shape i s with
  | result _ _ _ _ he | csr _ _ _ _ _ he | noop _ he =>
    cases he.symm.trans h
    simp
  | jump _ _ hf | branch _ _ hf => exact absurd hf hc
  | trap _ hf => exact absurd hf ht
  | load _ _ _ _ _ _ _ _ he =>
    obtain ⟨v, rfl⟩ := loadTo_eq_next (he.symm.trans h)
    simp
  | store _ _ _ _ _ _ he =>
    obtain ⟨m, rfl⟩ := storeFrom_eq_next (he.symm.trans h)
    rfl

/-- A CSR instruction always completes (R211, R212). -/
theorem exec_csr_completes (hc : familyOf i = .csr) (s : State) : ∃ t, exec i s = .next t := by
  cases exec_shape i s with
  | csr _ _ _ _ _ he => exact ⟨_, he⟩
  | result _ _ hf | jump _ _ hf | branch _ _ hf | load _ _ _ _ _ hf | store _ _ _ _ hf | trap _ hf
  | noop hf => cases hf.symm.trans hc

end

/-! ## Changes of the state that `exec` does not see

`exec` commutes with a change of the state when every accessor the instruction uses does. -/

/-- `f` leaves `pc`, `next_pc` and the registers alone and commutes with their writes. -/
structure CommutesWithRegs (f : State → State) : Prop where
  pc (s : State) : (f s).pc = s.pc
  nextPc (s : State) : (f s).nextPc = s.nextPc
  readReg (s : State) (r : RegIdx) : (f s).readReg r = s.readReg r
  writeReg (s : State) (r : RegIdx) (v : Word) : (f s).writeReg r v = f (s.writeReg r v)
  withNextPc (s : State) (v : Word) : (f s).withNextPc v = f (s.withNextPc v)

/-- `f` leaves what the bus answers alone and commutes with its writes. -/
structure CommutesWithBus (f : State → State) : Prop where
  memRead (s : State) (a : Word) (w : Width) : memRead (f s) a w = memRead s a w
  memWrite (s : State) (a : Word) (w : Width) (v : Word) :
    memWrite (f s) a w v = (memWrite s a w v).map f

/-- `f` leaves the CSRs alone and commutes with their writes. -/
structure CommutesWithCsrs (f : State → State) : Prop where
  readCsr (s : State) (a : CsrIdx) : (f s).readCsr a = s.readCsr a
  writeCsr (s : State) (a : CsrIdx) (v : Word) : (f s).writeCsr a v = f (s.writeCsr a v)

section
variable {f : State → State} (hx : CommutesWithRegs f) (s : State)
include hx

theorem CommutesWithRegs.writeResult (rd : RegIdx) (v : Word) :
    writeResult rd v (f s) = mapNext f (writeResult rd v s) :=
  congrArg _ (hx.writeReg s rd v)

theorem CommutesWithRegs.jumpAndLink (rd : RegIdx) (target : Word) :
    jumpAndLink rd target (f s) = mapNext f (jumpAndLink rd target s) := by
  simp only [Machine.jumpAndLink, hx.withNextPc, hx.writeReg, hx.nextPc, mapNext_next]

theorem CommutesWithRegs.branchIf (taken : Bool) (imm : Word) :
    branchIf taken imm (f s) = mapNext f (branchIf taken imm s) := by
  cases taken
  · rfl
  · simp only [Machine.branchIf, if_true, hx.withNextPc, hx.pc, mapNext_next]

theorem CommutesWithRegs.loadTo (hb : CommutesWithBus f) (w : Width) (ext : Word → Word)
    (rd rs1 : RegIdx) (imm : Word) :
    loadTo w ext rd rs1 imm (f s) = mapNext f (loadTo w ext rd rs1 imm s) := by
  simp only [Machine.loadTo, effAddr, hx.readReg, hx.pc, hb.memRead]
  cases memRead s (s.readReg rs1 + imm) w with
  | none => rfl
  | some v => exact hx.writeResult s rd (ext v)

theorem CommutesWithRegs.storeFrom (hb : CommutesWithBus f) (w : Width) (rs1 rs2 : RegIdx)
    (imm : Word) : storeFrom w rs1 rs2 imm (f s) = mapNext f (storeFrom w rs1 rs2 imm s) := by
  simp only [Machine.storeFrom, effAddr, hx.readReg, hx.pc, hb.memWrite]
  cases memWrite s (s.readReg rs1 + imm) w (s.readReg rs2) <;> rfl

theorem CommutesWithRegs.csrUpdate (hc : CommutesWithCsrs f) (rd : RegIdx) (a : CsrIdx)
    (new : Word → Word) : csrUpdate rd a new (f s) = mapNext f (csrUpdate rd a new s) := by
  simp only [Machine.csrUpdate, hc.readCsr, hc.writeCsr, hx.writeReg, mapNext_next]

theorem CommutesWithRegs.routeTrap (hc : CommutesWithCsrs f) (tr : Trap) :
    routeTrap tr (f s) = f (routeTrap tr s) := by
  cases tr with
  | exception c p v =>
    simp only [Machine.routeTrap, exceptionEntry, hc.readCsr, hc.writeCsr, hx.withNextPc]
  | ret p => simp only [Machine.routeTrap, trapReturn, hc.readCsr, hc.writeCsr, hx.withNextPc]

/-- An instruction commutes with a change that leaves alone the registers, the bus where it is a load
or store, and the CSRs where it is a CSR instruction or a trap. -/
theorem exec_comm (i : Instr) (hb : familyOf i = .load ∨ familyOf i = .store → CommutesWithBus f)
    (hc : familyOf i = .csr ∨ familyOf i = .trap → CommutesWithCsrs f) :
    exec i (f s) = mapNext f (exec i s) := by
  cases i
  case jal | jalr => simp only [exec, execJal, execJalr, hx.pc, hx.readReg, hx.jumpAndLink]
  case beq | bne | blt | bge | bltu | bgeu =>
    simp only [exec, execBeq, execBne, execBlt, execBge, execBltu, execBgeu, hx.readReg, hx.branchIf]
  case lb | lh | lw | lbu | lhu => exact hx.loadTo s (hb (.inl rfl)) _ _ _ _ _
  case sb | sh | sw => exact hx.storeFrom s (hb (.inr rfl)) _ _ _ _
  case csrrw | csrrs | csrrc | csrrwi | csrrsi | csrrci =>
    simp only [exec, execCsrrw, execCsrrs, execCsrrc, execCsrrwi, execCsrrsi, execCsrrci, hx.readReg,
      hx.csrUpdate s (hc (.inl rfl))]
  case ecall | ebreak | uret | sret =>
    simp only [exec, execEcall, execEbreak, execUret, execSret, hx.pc,
      hx.routeTrap s (hc (.inr rfl)), mapNext_next]
  case fence | fenceI | wfi | mret | sfenceVma => rfl
  all_goals
    simp only [exec, execLui, execAuipc, execAddi, execSlti, execSltiu, execXori, execOri, execAndi,
      execSlli, execSrli, execSrai, execAdd, execSub, execSll, execSlt, execSltu, execXor, execSrl,
      execSra, execOr, execAnd, regShamt, hx.pc, hx.readReg, hx.writeResult]

end

theorem commutesWithRegs_withCsrs (c : CsrFile) : CommutesWithRegs (·.withCsrs c) where
  pc _ := rfl
  nextPc _ := rfl
  readReg _ _ := rfl
  writeReg _ _ _ := by
    unfold State.writeReg
    split <;> rfl
  withNextPc _ _ := rfl

theorem commutesWithBus_withCsrs (c : CsrFile) : CommutesWithBus (·.withCsrs c) where
  memRead _ _ _ := rfl
  memWrite s a w v := by
    cases h : inRange s.params a (widthBytes w)
    · simp [memWrite, h]
    · simp only [memWrite, State.withCsrs_params, h]
      rfl

/-! ## Cycles and safe runs (R36, R281) -/

theorem cycle_of_next {s t : State} (h : step s = .next t) : cycle s = t := by
  simp only [cycle, h]

theorem cycle_of_fault {s : State} {r : Fault} (h : step s = .fault r) :
    cycle s = s.withStatus (.fatal r) := by
  simp only [cycle, h]

/-- A halted core stays as it is, however many cycles it is given. -/
theorem cycle_iterate_of_fatal {s : State} {r : Fault} (hs : s.status = .fatal r) (n : Nat) :
    cycle^[n] s = s :=
  Function.iterate_fixed (cycle_of_fatal hs) n

/-- A completed step leaves the core running. -/
theorem step_next_status {s t : State} (h : step s = .next t) : t.status = .running := by
  obtain ⟨hrun, w, i, u, -, -, he, rfl⟩ := step_next_cases h
  obtain ⟨-, hst, -⟩ := exec_sameControl he
  exact hst.trans hrun

theorem safeRun_succ_of_next {s t : State} (h : step s = .next t) (n : Nat) :
    SafeRun (n + 1) s ↔ SafeRun n t := by
  simp [SafeRun, h]

/-- A step that halts ends every safe run. -/
theorem not_safeRun_succ_of_fault {s : State} {r : Fault} (h : step s = .fault r) (n : Nat) :
    ¬SafeRun (n + 1) s := by
  simp [SafeRun, h]

theorem safeRun_iff_running {s : State} (hs : s.status = .running) (n : Nat) :
    SafeRun n s ↔ (cycle^[n] s).status = .running := by
  induction n generalizing s with
  | zero => simp [SafeRun, hs]
  | succ n ih =>
    rw [Function.iterate_succ_apply]
    cases h : step s with
    | next t => rw [safeRun_succ_of_next h, cycle_of_next h, ih (step_next_status h)]
    | fault r =>
      rw [cycle_of_fault h, cycle_iterate_of_fatal (State.withStatus_status s _)]
      simp [not_safeRun_succ_of_fault h]
    | refused r => exact absurd h (step_ne_refused s r)

/-! ## MSTATUS fields (R32) -/

section
variable (m : Word) (b : BitVec 1) (p : BitVec 2)

theorem toNat_getMie : (getMie m).toNat = m.toNat / 8 % 2 := by
  simp [getMie, Nat.shiftRight_eq_div_pow]

theorem toNat_getMpie : (getMpie m).toNat = m.toNat / 128 % 2 := by
  simp [getMpie, Nat.shiftRight_eq_div_pow]

theorem toNat_getMpp : (getMpp m).toNat = m.toNat / 2048 % 4 := by
  simp [getMpp, Nat.shiftRight_eq_div_pow]

theorem getMie_setMie : getMie (setMie m b) = b := by
  ext i hi
  obtain rfl : i = 0 := by omega
  rw [getMie_zero_bit, getElem_setMie, if_pos rfl]

theorem getMpie_setMpie : getMpie (setMpie m b) = b := by
  ext i hi
  obtain rfl : i = 0 := by omega
  rw [getMpie_zero_bit, getElem_setMpie, if_pos rfl]

theorem getElem_getMpp (i : Nat) (hi : i < 2) : (getMpp m)[i] = m[11 + i] := by
  simp [getMpp, BitVec.getLsbD_eq_getElem (show 11 + i < 32 by omega)]

theorem getMpp_setMpp : getMpp (setMpp m p) = p := by
  ext i hi
  rw [getElem_getMpp _ i hi, getElem_setMpp]
  interval_cases i <;> rfl

theorem getLsbD_setMie_of_ne {j : Nat} (hj : j < 32) (h : j ≠ 3) :
    (setMie m b).getLsbD j = m.getLsbD j := by
  rw [BitVec.getLsbD_eq_getElem hj, BitVec.getLsbD_eq_getElem hj, getElem_setMie, if_neg h]

theorem getLsbD_setMpie_of_ne {j : Nat} (hj : j < 32) (h : j ≠ 7) :
    (setMpie m b).getLsbD j = m.getLsbD j := by
  rw [BitVec.getLsbD_eq_getElem hj, BitVec.getLsbD_eq_getElem hj, getElem_setMpie, if_neg h]

theorem getLsbD_setMpp_of_ne {j : Nat} (hj : j < 32) (h11 : j ≠ 11) (h12 : j ≠ 12) :
    (setMpp m p).getLsbD j = m.getLsbD j := by
  rw [BitVec.getLsbD_eq_getElem hj, BitVec.getLsbD_eq_getElem hj, getElem_setMpp, if_neg h11,
    if_neg h12]

end

/-! ## MTVEC (R33) -/

/-- A CSR reads the same in any two states with the same CSR file. -/
theorem State.readCsr_congr {s t : State} (h : s.csr = t.csr) (a : CsrIdx) :
    s.readCsr a = t.readCsr a := by
  simp only [State.readCsr, h]

/-- CSRRW stores the source register (R213). -/
theorem readCsr_exec_csrrw {s t : State} {rd rs1 : RegIdx} {a : CsrIdx}
    (h : exec (.csrrw rd rs1 a) s = .next t) : t.readCsr a = s.readReg rs1 := by
  cases h
  rw [State.readCsr_writeReg, State.readCsr_writeCsr, if_pos rfl]

/-! ## The obligations -/

/-- Settles O17: a step halts on the fetch, on the decode, or where its instruction halts, and an
instruction halts only on its access. -/
theorem stepStopsOnlyForTheFourReasons : Obligations.StepStopsOnlyForTheFourReasons := by
  intro s r h
  rcases step_fault_cases h with hs | ⟨-, ⟨hw, hr⟩ | hdecode | ⟨w, i, hw, hi, he⟩⟩
  · exact .inl hs
  · exact .inr (.inl ⟨hr, not_inStore_of_inRange_false (memRead_eq_none.1 hw)⟩)
  · exact .inr (.inr (.inl hdecode))
  · obtain ⟨base, imm, n, ha, hn, hr⟩ := exec_fault_cases he
    exact .inr (.inr (.inr ⟨w, i, base, imm, n, hw, hi, ha, hn, hr⟩))

/-- Settles O21, by induction on the number of cycles. -/
theorem safeRunIsStillRunning : Obligations.SafeRunIsStillRunning :=
  fun _ => safeRun_iff_running

/-- Settles O26: the accessors hard-wire x0, so an instruction that writes its destination x0 writes no
register. -/
theorem registerZeroIsHardwired : Obligations.RegisterZeroIsHardwired := by
  refine ⟨fun _ _ => State.readReg_zero _, State.writeReg_zero, fun i s t hd he => ?_⟩
  rcases exec_next_regs he with hsame | ⟨rd, v, hrd, hregs⟩
  · exact hsame
  · obtain rfl : rd = 0 := Option.some.inj (hrd.symm.trans hd)
    exact hregs.sameRegs_of_zero

/-- Settles O28: a change of the CSR file is one that only CSR instructions and traps can see. -/
theorem onlyCsrInstructionsAndTrapsUseCsrs : Obligations.OnlyCsrInstructionsAndTrapsUseCsrs := by
  refine ⟨fun i s c hcsr htrap => ?_, fun i s h => exec_csr_completes h s⟩
  exact exec_comm (commutesWithRegs_withCsrs c) s i (fun _ => commutesWithBus_withCsrs c)
    (fun h => absurd h (not_or.2 ⟨hcsr, htrap⟩))

/-- Settles O31: the commit copies `next_pc` to `pc`, and the instruction left `next_pc` at the
default successor. -/
theorem sequentialInstructionsAdvanceByFour : Obligations.SequentialInstructionsAdvanceByFour := by
  intro s t h
  obtain ⟨-, w, i, u, hw, hi, he, rfl⟩ := step_next_cases h
  refine ⟨rfl, fun w' i' hw' hi' hctl htrap => ?_⟩
  obtain rfl : w = w' := Option.some.inj (hw.symm.trans hw')
  obtain rfl : i = i' := Option.some.inj (hi.symm.trans hi')
  calc (commitPc u).pc
    _ = s.pc + 4 := exec_next_nextPc he hctl htrap
    _ = BitVec.ofNat 32 (s.pc.toNat + 4) := by simp [BitVec.ofNat_add]

/-- Settles O34, field by field. -/
theorem mstatusAccessorsTouchOnlyTheirField : Obligations.MstatusAccessorsTouchOnlyTheirField :=
  fun m b p => ⟨toNat_getMie m, toNat_getMpie m, toNat_getMpp m, getMie_setMie m b,
    getMpie_setMpie m b, getMpp_setMpp m p, fun _ => getLsbD_setMie_of_ne m b,
    fun _ => getLsbD_setMpie_of_ne m b, fun _ => getLsbD_setMpp_of_ne m p⟩

/-- Settles O48: the ECALL reads MTVEC from the file CSRRW wrote, and goes to its base. -/
theorem mtvecWriteTakesEffectAtOnce : Obligations.MtvecWriteTakesEffectAtOnce := by
  intro s t u rd rs1 h hcsr
  have hmtvec : u.readCsr csrMtvec = s.readReg rs1 :=
    (State.readCsr_congr hcsr _).trans (readCsr_exec_csrrw h)
  refine ⟨exceptionEntry .ecallFromM u.pc u.pc u, rfl, ?_⟩
  rw [exceptionEntry_nextPc, hmtvec, trapTarget_eq]

end Sys2Proof.Machine

/-!
The memory (spec/20_memory.md R51 to R66, spec/42_load_store.md): the value of a wide read, what the
bus reads after it wrote, what each load and store does, and the two changes of the state that bound
who uses memory: another memory under an instruction that is no load or store, and another host
address under a step.
-/

namespace Sys2Proof.Machine

/-! ## Zero extension (R14) -/

/-- A word extended from its full width is the word. -/
theorem zext_width (v : Word) : zext 32 v = v := by
  rw [zext, BitVec.setWidth_eq, BitVec.setWidth_eq]

theorem zext_idem (n : Nat) (v : Word) : zext n (zext n v) = zext n v := by
  apply BitVec.eq_of_getElem_eq
  intro i hi
  rw [getElem_zext, getElem_zext, ← Bool.and_assoc, Bool.and_self]

/-- Zero extension from bit `n` is a mask. -/
theorem zext_eq_and (n : Nat) (v : Word) : zext n v = v &&& BitVec.ofNat 32 (2 ^ n - 1) := by
  apply BitVec.eq_of_getElem_eq
  intro i hi
  rw [getElem_zext, BitVec.getElem_and, ← BitVec.getLsbD_eq_getElem hi (x := BitVec.ofNat _ _),
    BitVec.getLsbD_ofNat, Nat.testBit_two_pow_sub_one, decide_eq_true hi, Bool.true_and, Bool.and_comm]

/-! ## The value of a wide read (R53) -/

theorem toNat_readLE_lt (m : Memory) (a n : Nat) : (readLE m a n).toNat < 2 ^ (8 * n) := by
  refine Nat.lt_pow_two_of_testBit _ fun i hi => ?_
  rw [BitVec.testBit_toNat]
  by_cases h32 : i < 32
  · rw [BitVec.getLsbD_eq_getElem h32, getElem_readLE, decide_eq_false (by omega), Bool.false_and]
  · exact BitVec.getLsbD_of_ge _ _ (Nat.le_of_not_lt h32)

/-- One more byte below: the byte at the lowest address is the least significant. -/
theorem toNat_readLE_succ (m : Memory) (a : Nat) {n : Nat} (hn : n < 4) :
    (readLE m a (n + 1)).toNat = (readByte m a).toNat + 256 * (readLE m (a + 1) n).toNat := by
  have hbyte : (readByte m a).toNat < 2 ^ 8 := (readByte m a).isLt
  have hrest : (readLE m (a + 1) n).toNat < 2 ^ 24 :=
    (toNat_readLE_lt m (a + 1) n).trans_le (Nat.pow_le_pow_right (by decide) (by omega))
  have hput : (put 0 (readByte m a)).toNat = (readByte m a).toNat := by
    simp only [put, BitVec.shiftLeft_zero, BitVec.toNat_setWidth]
    omega
  have hshift : (readLE m (a + 1) n <<< 8).toNat = (readLE m (a + 1) n).toNat <<< 8 := by
    rw [BitVec.toNat_shiftLeft, Nat.shiftLeft_eq]
    omega
  rw [readLE, BitVec.toNat_or, hput, hshift, Nat.or_comm, ← Nat.shiftLeft_add_eq_or_of_lt hbyte,
    Nat.shiftLeft_eq]
  omega

theorem toNat_readLE_four (m : Memory) (a : Nat) :
    (readLE m a 4).toNat = (readByte m a).toNat + 256 * (readByte m (a + 1)).toNat +
      65536 * (readByte m (a + 2)).toNat + 16777216 * (readByte m (a + 3)).toNat := by
  have hzero : (readLE m (a + 3 + 1) 0).toNat = 0 := rfl
  rw [toNat_readLE_succ m a (by decide), toNat_readLE_succ m (a + 1) (by decide),
    toNat_readLE_succ m (a + 2) (by decide), toNat_readLE_succ m (a + 3) (by decide), hzero]
  omega

/-! ## The bus reads what it wrote (R56, R62) -/

/-- A read of `l` bytes inside the `n` bytes just written, `k` bytes in, gives that part of the
value. -/
theorem readLE_writeLE_within {k l n : Nat} (h : k + l ≤ n) (m : Memory) (a : Nat) (v : Word) :
    readLE (writeLE m a n v) (a + k) l = zext (8 * l) (v >>> (8 * k)) := by
  apply BitVec.eq_of_getElem_eq
  intro i hi
  rw [getElem_readLE, getElem_zext, readByte_writeLE]
  by_cases hl : i < 8 * l
  · have hoff : 8 * (a + k + i / 8 - a) + i % 8 = 8 * k + i := by omega
    rw [if_pos (by omega)]
    simp [hoff, show i % 8 < 8 by omega]
  · simp [hl]

section
variable {s t : State} {a v : Word} {w w' : Width}

theorem memRead_of_inStore (h : InStore s a (widthBytes w)) :
    memRead s a w = some (readLE s.mem a.toNat (widthBytes w)) :=
  memRead_eq_some.2 ⟨inStore_iff.1 h, rfl⟩

theorem memRead_of_not_inStore (h : ¬InStore s a (widthBytes w)) : memRead s a w = none :=
  memRead_eq_none.2 (by simpa [inStore_iff] using h)

theorem memWrite_of_inStore (h : InStore s a (widthBytes w)) :
    memWrite s a w v = some (s.withMem (writeLE s.mem a.toNat (widthBytes w) v)) :=
  memWrite_eq_some.2 ⟨inStore_iff.1 h, rfl⟩

theorem memWrite_of_not_inStore (h : ¬InStore s a (widthBytes w)) : memWrite s a w v = none :=
  memWrite_eq_none.2 (by simpa [inStore_iff] using h)

/-- A bus read depends on the memory and the parameters alone. -/
theorem memRead_congr (hm : s.mem = t.mem) (hp : s.params = t.params) :
    memRead s a w = memRead t a w := by
  simp only [memRead, hm, hp]

/-- A bus write changes no register. -/
theorem memWrite_readReg (h : memWrite s a w v = some t) (r : RegIdx) :
    t.readReg r = s.readReg r := by
  obtain ⟨-, rfl⟩ := memWrite_eq_some.1 h
  rfl

/-- A read of the bytes just written gives the low bytes of the value. -/
theorem memRead_memWrite_same (h : memWrite s a w v = some t) :
    memRead t a w = some (zext (8 * widthBytes w) v) := by
  obtain ⟨hr, rfl⟩ := memWrite_eq_some.1 h
  exact memRead_eq_some.2 ⟨hr, (readLE_writeLE_same _ _ _ _).symm⟩

/-- An address inside an access that is in a store of legal size does not wrap. -/
theorem toNat_add_ofNat_of_inRange {p : Params} {n k : Nat} (hp : p.valid = true)
    (hr : inRange p a n = true) (hk : k < n) : (a + BitVec.ofNat 32 k).toNat = a.toNat + k := by
  simp only [Params.valid, Bool.and_eq_true, decide_eq_true_eq] at hp
  obtain ⟨⟨⟨-, hsize⟩, -⟩, -⟩ := hp
  obtain ⟨-, hhi⟩ := (inRange_iff _ _ _).1 hr
  simp only [memBase] at hhi
  rw [BitVec.toNat_add, BitVec.toNat_ofNat]
  omega

theorem widthBytes_pos (w : Width) : 0 < widthBytes w := by
  cases w <;> decide

/-- A narrower read inside the bytes just written, `k` bytes in, gives that part of the value. -/
theorem memRead_memWrite_within (h : memWrite s a w v = some t) {b : Word} {k : Nat}
    (hb : b.toNat = a.toNat + k) (hk : k + widthBytes w' ≤ widthBytes w) :
    memRead t b w' = some (zext (8 * widthBytes w') (v >>> (8 * k))) := by
  obtain ⟨hr, rfl⟩ := memWrite_eq_some.1 h
  obtain ⟨hlo, hhi⟩ := (inRange_iff _ _ _).1 hr
  refine memRead_eq_some.2 ⟨(inRange_iff _ _ _).2 ?_, ?_⟩
  · rw [hb, State.withMem_params]
    omega
  · rw [hb, State.withMem_mem, readLE_writeLE_within hk]

end

/-! ## Loads (R190 to R197) -/

section
variable {w : Width} {ext : Word → Word} {rd rs1 rs2 : RegIdx} {imm : Word} {i : Instr} {s t : State}

theorem loadTo_of_memRead {v : Word} (h : memRead s (s.readReg rs1 + imm) w = some v) :
    loadTo w ext rd rs1 imm s = .next (s.writeReg rd (ext v)) := by
  simp only [loadTo, effAddr, h, writeResult]

theorem loadTo_of_memRead_none (h : memRead s (s.readReg rs1 + imm) w = none) :
    loadTo w ext rd rs1 imm s = .fault (.loadError (s.readReg rs1 + imm) s.pc) := by
  simp only [loadTo, effAddr, h]

/-- A register write has the frame of `WritesOnlyReg`. -/
theorem writesOnlyReg_of_writeReg {v : Word} (h : exec i s = .next (s.writeReg rd v)) :
    WritesOnlyReg i s rd v :=
  ⟨_, h, regsAfter_writeReg rd v fun _ => rfl, State.readCsr_writeReg s rd v,
    State.byteAt_writeReg s rd v, by simp [SameControl], by simp⟩

/-- `ext` keeps the low `n` bytes of a word and fills the rest with copies of their top bit or
with 0 (R14). -/
def Extends (ext : Word → Word) (n : Nat) (signed : Bool) : Prop :=
  ∀ (v : Word) (j : Nat) (hj : j < 32),
    (ext v)[j] = if j < 8 * n then v[j] else signed && v.getLsbD (8 * n - 1)

theorem extends_sext (n : Nat) (hn : 0 < n) : Extends (sext (8 * n)) n true := by
  intro v j hj
  rw [getElem_sext (by omega), Bool.true_and]

theorem extends_zext (n : Nat) : Extends (zext (8 * n)) n false := by
  intro v j hj
  rw [getElem_zext]
  by_cases h : j < 8 * n <;> simp [h]

theorem extends_id : Extends id 4 false := by
  intro v j hj
  rw [if_pos hj, id]

/-- The bits of the extended value of `n` bytes, byte by byte. -/
theorem getLsbD_extend_readLE {n : Nat} {signed : Bool} (hext : Extends ext n signed) (hn : 0 < n)
    (hn4 : n ≤ 4) (m : Memory) (a j : Nat) (hj : j < 32) :
    (ext (readLE m a n)).getLsbD j =
      if j < 8 * n then (readByte m (a + j / 8)).getLsbD (j % 8)
      else signed && (readByte m (a + (n - 1))).getLsbD 7 := by
  rw [BitVec.getLsbD_eq_getElem hj, hext _ j hj]
  by_cases h : j < 8 * n
  · rw [if_pos h, if_pos h, getElem_readLE, decide_eq_true h, Bool.true_and]
  · have htop : 8 * n - 1 < 32 := by omega
    have hbyte : (8 * n - 1) / 8 = n - 1 := by omega
    have hbit : (8 * n - 1) % 8 = 7 := by omega
    rw [if_neg h, if_neg h, BitVec.getLsbD_eq_getElem htop, getElem_readLE,
      decide_eq_true (by omega), Bool.true_and, hbyte, hbit]

/-- Every load loads the bytes of its width, extended as its extension says. -/
theorem loadsBytes_of_loadTo {signed : Bool} (he : exec i s = loadTo w ext rd rs1 imm s)
    (hext : Extends ext (widthBytes w) signed) :
    LoadsBytes i s rd (s.readReg rs1 + imm) (widthBytes w) signed := by
  have hw : widthBytes w ≤ 4 := by cases w <;> decide
  refine ⟨fun hin => ?_, fun hout => ?_⟩
  · have hexec := he.trans (loadTo_of_memRead (memRead_of_inStore hin))
    exact ⟨_, writesOnlyReg_of_writeReg hexec, getLsbD_extend_readLE hext (widthBytes_pos w) hw _ _⟩
  · exact he.trans (loadTo_of_memRead_none (memRead_of_not_inStore hout))

/-! ## Stores (R190, R191, R198 to R200) -/

theorem storeFrom_of_memWrite (h : memWrite s (s.readReg rs1 + imm) w (s.readReg rs2) = some t) :
    storeFrom w rs1 rs2 imm s = .next t := by
  simp only [storeFrom, effAddr, h]

theorem storeFrom_of_memWrite_none
    (h : memWrite s (s.readReg rs1 + imm) w (s.readReg rs2) = none) :
    storeFrom w rs1 rs2 imm s = .fault (.storeError (s.readReg rs1 + imm) s.pc) := by
  simp only [storeFrom, effAddr, h]

/-- A store that completes is the bus write of `x[rs2]` at the effective address. -/
theorem memWrite_of_storeFrom (h : storeFrom w rs1 rs2 imm s = .next t) :
    memWrite s (s.readReg rs1 + imm) w (s.readReg rs2) = some t := by
  cases hw : memWrite s (s.readReg rs1 + imm) w (s.readReg rs2) with
  | none => cases (storeFrom_of_memWrite_none hw).symm.trans h
  | some u =>
    cases (storeFrom_of_memWrite hw).symm.trans h
    rfl

/-- Byte `k` of a word as a quotient. -/
theorem setWidth_ushiftRight_eq_ofNat (v : Word) (k : Nat) :
    (v >>> (8 * k)).setWidth 8 = BitVec.ofNat 8 (v.toNat / 256 ^ k) := by
  apply BitVec.eq_of_toNat_eq
  rw [BitVec.toNat_setWidth, BitVec.toNat_ushiftRight, BitVec.toNat_ofNat,
    Nat.shiftRight_eq_div_pow, Nat.pow_mul]

/-- Every store stores the bytes of its width of `x[rs2]`. -/
theorem storesBytes_of_storeFrom (he : exec i s = storeFrom w rs1 rs2 imm s) :
    StoresBytes i s (s.readReg rs1 + imm) (widthBytes w) (s.readReg rs2) := by
  refine ⟨fun hout => ?_, fun hin => ?_⟩
  · exact he.trans (storeFrom_of_memWrite_none (memWrite_of_not_inStore hout))
  · refine ⟨_, he.trans (storeFrom_of_memWrite (memWrite_of_inStore hin)), fun _ => rfl, fun _ => rfl,
      ⟨rfl, rfl, rfl⟩, rfl, fun a => ?_⟩
    rw [State.byteAt_withMem, readByte_writeLE, setWidth_ushiftRight_eq_ofNat]
    rfl

/-- A load of the same width and operands as a store that completed writes the low bytes of the
stored value, extended, to its destination. -/
theorem readReg_loadTo_after_storeFrom (h : storeFrom w rs1 rs2 imm s = .next t) :
    ∃ u, loadTo w ext rd rs1 imm t = .next u ∧
      u.readReg rd = if rd = 0 then 0 else ext (zext (8 * widthBytes w) (s.readReg rs2)) := by
  have hw := memWrite_of_storeFrom h
  have hread : memRead t (t.readReg rs1 + imm) w = some (zext (8 * widthBytes w) (s.readReg rs2)) := by
    rw [memWrite_readReg hw]
    exact memRead_memWrite_same hw
  refine ⟨_, loadTo_of_memRead hread, ?_⟩
  rw [State.readReg_writeReg, if_pos (rfl : rd = rd)]

end

/-! ## Only loads and stores use memory (R58) -/

theorem commutesWithRegs_withMem (m : Memory) : CommutesWithRegs (·.withMem m) where
  pc _ := rfl
  nextPc _ := rfl
  readReg _ _ := rfl
  writeReg _ _ _ := by
    unfold State.writeReg
    split <;> rfl
  withNextPc _ _ := rfl

theorem commutesWithCsrs_withMem (m : Memory) : CommutesWithCsrs (·.withMem m) where
  readCsr _ _ := rfl
  writeCsr _ _ _ := rfl

/-- A load changes no byte. -/
theorem exec_load_sameBytes {i : Instr} {s t : State} (hl : familyOf i = .load)
    (h : exec i s = .next t) : SameBytes s t := by
  cases exec_shape i s with
  | load _ _ rd _ _ _ _ _ he =>
    obtain ⟨v, rfl⟩ := loadTo_eq_next (he.symm.trans h)
    exact State.byteAt_writeReg s rd v
  | result _ _ hf | jump _ _ hf | branch _ _ hf | store _ _ _ _ hf | csr _ _ _ hf | trap _ hf
  | noop hf => cases hf.symm.trans hl

/-! ## The host address (R59, R66) -/

/-- The state with the host I/O word at another address. -/
def State.withHostAddr (s : State) (h : Nat) : State :=
  { s with params := { s.params with hostIoAddr := h } }

theorem commutesWithRegs_withHostAddr (h : Nat) : CommutesWithRegs (·.withHostAddr h) where
  pc _ := rfl
  nextPc _ := rfl
  readReg _ _ := rfl
  writeReg _ _ _ := by
    unfold State.writeReg
    split <;> rfl
  withNextPc _ _ := rfl

theorem commutesWithBus_withHostAddr (h : Nat) : CommutesWithBus (·.withHostAddr h) where
  memRead _ _ _ := rfl
  memWrite s a w v := by
    have hr : inRange (s.withHostAddr h).params a (widthBytes w) = inRange s.params a (widthBytes w) :=
      rfl
    cases hc : inRange s.params a (widthBytes w)
    · simp [memWrite, hr, hc]
    · simp only [memWrite, hr, hc]
      rfl

theorem commutesWithCsrs_withHostAddr (h : Nat) : CommutesWithCsrs (·.withHostAddr h) where
  readCsr _ _ := rfl
  writeCsr _ _ _ := rfl

theorem exec_withHostAddr (i : Instr) (s : State) (h : Nat) :
    exec i (s.withHostAddr h) = mapNext (·.withHostAddr h) (exec i s) :=
  exec_comm (commutesWithRegs_withHostAddr h) s i (fun _ => commutesWithBus_withHostAddr h)
    (fun _ => commutesWithCsrs_withHostAddr h)

theorem commitOutcome_mapNext_withHostAddr (o : Host.Outcome State Fault Refusal) (h : Nat) :
    commitOutcome (mapNext (·.withHostAddr h) o) = mapNext (·.withHostAddr h) (commitOutcome o) := by
  cases o <;> rfl

/-- A step does not see the host address: its fetch, its decode and its instruction do not. -/
theorem step_withHostAddr (s : State) (h : Nat) :
    step (s.withHostAddr h) = mapNext (·.withHostAddr h) (step s) := by
  have hstatus : (s.withHostAddr h).status = s.status := rfl
  have hfetch : busFetch (s.withHostAddr h) = busFetch s := rfl
  have hbegin : beginCycle (s.withHostAddr h) = (beginCycle s).withHostAddr h := rfl
  cases hs : s.status with
  | fatal r => rw [step_of_fatal hs, step_of_fatal (hstatus.trans hs), mapNext_fault]
  | running =>
    cases hw : busFetch s with
    | none =>
      simp only [step, hstatus, hfetch, hs, hw]
      rfl
    | some w =>
      cases hi : decode w with
      | none =>
        simp only [step, hstatus, hfetch, hs, hw, hi]
        rfl
      | some i =>
        rw [step_of_decode hs hw hi, step_of_decode (hstatus.trans hs) (hfetch.trans hw) hi, hbegin,
          exec_withHostAddr, commitOutcome_mapNext_withHostAddr]

/-! ## The obligations -/

/-- Settles O11: the fetch is the wide read of four bytes at `pc`. -/
theorem fetchReadsTheLittleEndianWordAtPc : Obligations.FetchReadsTheLittleEndianWordAtPc :=
  fun s hin => ⟨_, memRead_of_inStore (w := .word) hin, toNat_readLE_four s.mem s.pc.toNat⟩

/-- Settles O25: no part of a step sees the host address. -/
theorem hostAddressDoesNotAffectAStep : Obligations.HostAddressDoesNotAffectAStep :=
  step_withHostAddr

/-- Settles O29: a change of the memory is one that only loads and stores can see. -/
theorem onlyLoadsAndStoresUseMemory : Obligations.OnlyLoadsAndStoresUseMemory := by
  refine ⟨fun i s m hload hstore => ?_, fun i s t => exec_load_sameBytes⟩
  exact exec_comm (commutesWithRegs_withMem m) s i (fun h => absurd h (not_or.2 ⟨hload, hstore⟩))
    (fun _ => commutesWithCsrs_withMem m)

/-- Settles O42: each load is the shared load at its width and extension. -/
theorem loadResults : Obligations.LoadResults := by
  intro s rd rs1 imm
  refine ⟨?lb, ?lh, ?lw, ?lbu, ?lhu⟩
  case lb => exact loadsBytes_of_loadTo (w := .byte) rfl (extends_sext 1 (by decide))
  case lh => exact loadsBytes_of_loadTo (w := .half) rfl (extends_sext 2 (by decide))
  case lw => exact loadsBytes_of_loadTo (w := .word) rfl extends_id
  case lbu => exact loadsBytes_of_loadTo (w := .byte) rfl (extends_zext 1)
  case lhu => exact loadsBytes_of_loadTo (w := .half) rfl (extends_zext 2)

/-- Settles O43: each store is the shared store at its width. -/
theorem storeResults : Obligations.StoreResults :=
  fun _ _ _ _ => ⟨storesBytes_of_storeFrom (w := .byte) rfl, storesBytes_of_storeFrom (w := .half) rfl,
    storesBytes_of_storeFrom (w := .word) rfl⟩

/-- Settles O44: the unsigned load of the stored width extends by 0 what the store kept, which is the
value masked to the width. -/
theorem storeThenLoadReturnsTheStoredBytes : Obligations.StoreThenLoadReturnsTheStoredBytes := by
  intro s t rs1 rs2 rd imm
  refine ⟨fun h => ?sw, fun h => ?sh, fun h => ?sb⟩
  case sw =>
    obtain ⟨u, hu, hrd⟩ := readReg_loadTo_after_storeFrom (w := .word) (ext := id) (rd := rd) h
    exact ⟨u, hu, by rw [hrd, id, widthBytes, zext_width]⟩
  case sh =>
    obtain ⟨u, hu, hrd⟩ := readReg_loadTo_after_storeFrom (w := .half) (ext := zext 16) (rd := rd) h
    exact ⟨u, hu, by rw [hrd, widthBytes, zext_idem, zext_eq_and]; rfl⟩
  case sb =>
    obtain ⟨u, hu, hrd⟩ := readReg_loadTo_after_storeFrom (w := .byte) (ext := zext 8) (rd := rd) h
    exact ⟨u, hu, by rw [hrd, widthBytes, zext_idem, zext_eq_and]; rfl⟩

/-- Settles O45: each read is a part of the bytes just written. -/
theorem mixedWidthAccessesSeeOneByteArray : Obligations.MixedWidthAccessesSeeOneByteArray := by
  intro s t a hp h
  obtain ⟨hr, -⟩ := memWrite_eq_some.1 h
  have h1 : (a + 1).toNat = a.toNat + 1 := toNat_add_ofNat_of_inRange hp hr (by decide)
  have h2 : (a + 2).toNat = a.toNat + 2 := toNat_add_ofNat_of_inRange hp hr (by decide)
  exact ⟨memRead_memWrite_within (k := 0) (w' := .byte) h rfl (by decide),
    memRead_memWrite_within (w' := .byte) h h1 (by decide),
    memRead_memWrite_within (k := 0) (w' := .half) h rfl (by decide),
    memRead_memWrite_within (w' := .half) h h2 (by decide)⟩

/-- Settles O46: the fetch reads the memory the store left, at the stored address. -/
theorem storeIsSeenByTheNextFetch : Obligations.StoreIsSeenByTheNextFetch := by
  intro s t u rs1 rs2 imm h hm hp hpc
  calc busFetch u
    _ = memRead t (s.readReg rs1 + imm) .word := by rw [busFetch, hpc, memRead_congr hm hp]
    _ = some (zext 32 (s.readReg rs2)) := memRead_memWrite_same (memWrite_of_storeFrom h)
    _ = some (s.readReg rs2) := by rw [zext_width]

/-- Settles O53: the five arms return the state they are given. -/
theorem noOpsChangeNothing : Obligations.NoOpsChangeNothing :=
  fun _ _ _ _ _ => ⟨rfl, rfl, rfl, rfl, rfl⟩

end Sys2Proof.Machine

/-!
The encoding (spec/30_encoding.md): a word is its fields side by side, so each format writes back
the word whose fields it is given; from that, what `decode w = some i` says of `w`, said once. Then
the immediates, the round trip from the encoder's side, the opcode table's rows, the decoder on
bytes and the expansion of `li`.
-/

namespace Sys2Proof.Machine

/-! ## Fields side by side -/

/-- Two adjacent fields of a word are one field. -/
theorem put_extract_or_adjacent (w : Word) {lo hi m n : Nat} (h : hi = lo + n) :
    put hi (w.extractLsb' hi m) ||| put lo (w.extractLsb' lo n) =
      put lo (w.extractLsb' lo (n + m)) := by
  subst h
  apply BitVec.eq_of_getElem_eq
  intro i hi
  rw [BitVec.getElem_or, getElem_put, getElem_put, getElem_put]
  simp only [BitVec.getLsbD_extractLsb']
  grind

/-- The field of all 32 bits is the word. -/
theorem put_extract_all (w : Word) {n : Nat} (h : n = 32) : put 0 (w.extractLsb' 0 n) = w := by
  subst h
  simp [put]

/-- A field below the extended bits is that of the word before its extension. -/
theorem extract_sext (v : Word) {n start len : Nat} (hn : n ≤ 32) (h : start + len ≤ n) :
    (sext n v).extractLsb' start len = v.extractLsb' start len := by
  ext i hi
  rw [BitVec.getElem_extractLsb', BitVec.getElem_extractLsb', BitVec.getLsbD_eq_getElem (by omega),
    getElem_sext (by omega), if_pos (by omega), BitVec.getLsbD_eq_getElem]

/-- `put_zero` for the zero of simp's normal form. -/
theorem put_ofNat_zero (n lo : Nat) : put lo 0#n = 0#32 := put_zero lo

/-- A mask that covers a field keeps it. -/
theorem put_and_covered {n lo : Nat} (f : BitVec n) {m : Word}
    (h : m.extractLsb' lo n = BitVec.allOnes n) : put lo f &&& m = put lo f := by
  rw [put_and, h, BitVec.and_allOnes]

/-- A mask that covers no bit of a field drops it. -/
theorem put_and_uncovered {n lo : Nat} (f : BitVec n) {m : Word} (h : m.extractLsb' lo n = 0#n) :
    put lo f &&& m = 0#32 := by
  rw [put_and, h, BitVec.and_zero, put_ofNat_zero]

/-! ## Each format on the fields of a word (R82 to R90) -/

section
variable (w : Word)

theorem encR_of_fields :
    encR (opcodeOf w) (funct3Of w) (funct7Of w) (rdOf w) (rs1Of w) (rs2Of w) = w := by
  unfold encR opcodeOf funct3Of funct7Of rdOf rs1Of rs2Of
  simp (disch := omega) only [put_extract_or_adjacent, put_extract_all]

theorem encI_of_fields : encI (opcodeOf w) (funct3Of w) (rdOf w) (rs1Of w) (immI w) = w := by
  unfold encI immI opcodeOf funct3Of rdOf rs1Of
  simp (disch := omega) only [extract_sext, extract_put_same, put_extract_or_adjacent,
    put_extract_all]

theorem encShift_of_fields (hop : opcodeOf w = 0b0010011#7) :
    encShift (funct3Of w) (funct7Of w) (rdOf w) (rs1Of w) (shamtOf w) = w := by
  rw [encShift, ← hop]
  exact encR_of_fields w

theorem encCsr_of_fields (hop : opcodeOf w = 0b1110011#7) :
    encCsr (funct3Of w) (rdOf w) (rs1Of w) (csrOf w) = w := by
  rw [encCsr, ← hop]
  unfold opcodeOf funct3Of csrOf rs1Of rdOf
  simp (disch := omega) only [put_extract_or_adjacent, put_extract_all]

theorem encS_of_fields (hop : opcodeOf w = 0b0100011#7) :
    encS (funct3Of w) (rs1Of w) (rs2Of w) (immS w) = w := by
  rw [encS, ← hop]
  unfold immS opcodeOf funct3Of rs2Of rs1Of
  simp (disch := omega) only [extract_sext, extract_or, extract_put_same, extract_put_disjoint,
    BitVec.or_zero, BitVec.zero_or, put_extract_or_adjacent, put_extract_all]

theorem encB_of_fields (hop : opcodeOf w = 0b1100011#7) :
    encB (funct3Of w) (rs1Of w) (rs2Of w) (immB w) = w := by
  rw [encB, ← hop]
  unfold immB opcodeOf funct3Of rs2Of rs1Of
  simp (disch := omega) only [extract_sext, extract_or, extract_put_same, extract_put_disjoint,
    BitVec.or_zero, BitVec.zero_or, put_extract_or_adjacent, put_extract_all]

theorem encU_of_fields : encU (opcodeOf w) (rdOf w) (immU w) = w := by
  unfold encU immU opcodeOf rdOf
  simp (disch := omega) only [extract_put_same, put_extract_or_adjacent, put_extract_all]

theorem encJ_of_fields (hop : opcodeOf w = 0b1101111#7) : encJ (rdOf w) (immJ w) = w := by
  rw [encJ, ← hop]
  unfold immJ opcodeOf rdOf
  simp (disch := omega) only [extract_sext, extract_or, extract_put_same, extract_put_disjoint,
    BitVec.or_zero, BitVec.zero_or, put_extract_or_adjacent, put_extract_all]

/-- FENCE: the fields the decoder does not keep come back as 0 (R105, log entry 6). -/
theorem encFence_of_fields (hop : opcodeOf w = 0b0001111#7) (hf3 : funct3Of w = 0b000#3) :
    encFence (predOf w) (succOf w) = w &&& 0x0FF0707F := by
  have hw : put 28 (w.extractLsb' 28 4) ||| put 24 (predOf w) ||| put 20 (succOf w) |||
      put 15 (rs1Of w) ||| put 12 (funct3Of w) ||| put 7 (rdOf w) ||| put 0 (opcodeOf w) = w := by
    unfold predOf succOf rs1Of funct3Of rdOf opcodeOf
    simp (disch := omega) only [put_extract_or_adjacent, put_extract_all]
  conv_rhs => rw [← hw]
  simp (disch := decide) only [or_and_mask, put_and_covered, put_and_uncovered, BitVec.or_zero,
    BitVec.zero_or, encFence, hop, hf3]

/-- FENCE.I: only opcode and funct3 come back (R105, log entry 6). -/
theorem encI_of_selectors : encI (opcodeOf w) (funct3Of w) 0 0 0 = w &&& 0x0000707F := by
  rw [and_mask_funct3]
  simp [encI, put_ofNat_zero]

/-- The six sentinels: rs1 and rd come back as 0 (R106, log entry 6). -/
theorem encSentinel_of_fields (hop : opcodeOf w = 0b1110011#7) (hf3 : funct3Of w = 0b000#3) :
    encSentinel (imm12Of w) = w &&& 0xFFF0707F := by
  rw [encSentinel, ← hop, ← hf3, and_mask_imm12]

/-- SFENCE.VMA: rd comes back as 0 (R106, log entry 6). -/
theorem encR_of_fields_without_rd :
    encR (opcodeOf w) (funct3Of w) (funct7Of w) 0 (rs1Of w) (rs2Of w) = w &&& 0xFFFFF07F := by
  conv_rhs => rw [← encR_of_fields w]
  simp (disch := decide) only [encR, or_and_mask, put_and_covered, put_and_uncovered,
    BitVec.ofNat_eq_ofNat, put_ofNat_zero]

end

/-! ## What a decoded word says (R97 to R108) -/

/-- What `decode w = some i` says of `w`: the operands of `i` are its fields, and the encoder writes
`w` back with 0 in the bits that the decoder neither compares nor keeps (log entry 6). -/
structure DecodedFrom (w : Word) (i : Instr) : Prop where
  operands : OperandsOf w i
  encode_eq : encode i = w &&& keptBits i

section
variable {w : Word} {i : Instr}

/-- A row that keeps or compares every bit: the encoder writes the whole word back. -/
theorem DecodedFrom.of_encode_eq (ho : OperandsOf w i) (hk : keptBits i = BitVec.allOnes 32)
    (he : encode i = w) : DecodedFrom w i :=
  ⟨ho, by rw [he, hk, BitVec.and_allOnes]⟩

theorem decodedFrom_of_decodeJalr (hop : opcodeOf w = 0b1100111#7) (h : decodeJalr w = some i) :
    DecodedFrom w i := by
  have hw := encI_of_fields w
  unfold decodeJalr at h
  split at h <;> cases h
  rename_i hf3
  rw [hop, hf3] at hw
  exact .of_encode_eq ⟨rfl, rfl, rfl⟩ rfl hw

theorem decodedFrom_of_decodeBranch (hop : opcodeOf w = 0b1100011#7)
    (h : decodeBranch w = some i) : DecodedFrom w i := by
  have hw := encB_of_fields w hop
  unfold decodeBranch at h
  split at h <;> cases h
  all_goals
    rename_i hf3
    rw [hf3] at hw
    exact .of_encode_eq ⟨rfl, rfl, rfl⟩ rfl hw

theorem decodedFrom_of_decodeLoad (hop : opcodeOf w = 0b0000011#7) (h : decodeLoad w = some i) :
    DecodedFrom w i := by
  have hw := encI_of_fields w
  unfold decodeLoad at h
  split at h <;> cases h
  all_goals
    rename_i hf3
    rw [hop, hf3] at hw
    exact .of_encode_eq ⟨rfl, rfl, rfl⟩ rfl hw

theorem decodedFrom_of_decodeStore (hop : opcodeOf w = 0b0100011#7) (h : decodeStore w = some i) :
    DecodedFrom w i := by
  have hw := encS_of_fields w hop
  unfold decodeStore at h
  split at h <;> cases h
  all_goals
    rename_i hf3
    rw [hf3] at hw
    exact .of_encode_eq ⟨rfl, rfl, rfl⟩ rfl hw

theorem decodedFrom_of_decodeOpImm (hop : opcodeOf w = 0b0010011#7) (h : decodeOpImm w = some i) :
    DecodedFrom w i := by
  have hw := encI_of_fields w
  have hshift := encShift_of_fields w hop
  unfold decodeOpImm at h
  split at h
  case h_7 | h_8 =>
    rename_i hf3
    split at h <;> cases h
    all_goals
      rename_i hf7
      rw [hf3, hf7] at hshift
      exact .of_encode_eq ⟨rfl, rfl, rfl⟩ rfl hshift
  all_goals cases h
  all_goals
    rename_i hf3
    rw [hop, hf3] at hw
    exact .of_encode_eq ⟨rfl, rfl, rfl⟩ rfl hw

theorem decodedFrom_of_decodeOp (hop : opcodeOf w = 0b0110011#7) (h : decodeOp w = some i) :
    DecodedFrom w i := by
  have hw := encR_of_fields w
  unfold decodeOp at h
  split at h
  case h_3 => cases h
  all_goals
    rename_i hf7
    split at h <;> cases h
    all_goals
      rename_i hf3
      rw [hop, hf3, hf7] at hw
      exact .of_encode_eq ⟨rfl, rfl, rfl⟩ rfl hw

theorem decodedFrom_of_decodeMiscMem (hop : opcodeOf w = 0b0001111#7)
    (h : decodeMiscMem w = some i) : DecodedFrom w i := by
  unfold decodeMiscMem at h
  split at h <;> cases h
  · rename_i hf3
    exact ⟨⟨rfl, rfl⟩, encFence_of_fields w hop hf3⟩
  · rename_i hf3
    have hw := encI_of_selectors w
    rw [hop, hf3] at hw
    exact ⟨trivial, hw⟩

theorem decodedFrom_of_decodeSentinel (hop : opcodeOf w = 0b1110011#7)
    (hf3 : funct3Of w = 0b000#3) (h : decodeSentinel w = some i) : DecodedFrom w i := by
  have hw := encSentinel_of_fields w hop hf3
  have hsfence := encR_of_fields_without_rd w
  unfold decodeSentinel at h
  split at h
  case h_7 =>
    split at h <;> cases h
    rename_i hf7
    rw [hop, hf3, hf7] at hsfence
    exact ⟨⟨rfl, rfl⟩, hsfence⟩
  all_goals
    cases h
    rename_i himm
    rw [himm] at hw
    exact ⟨trivial, hw⟩

theorem decodedFrom_of_decodeSystem (hop : opcodeOf w = 0b1110011#7)
    (h : decodeSystem w = some i) : DecodedFrom w i := by
  have hw := encCsr_of_fields w hop
  unfold decodeSystem at h
  split at h
  case h_1 =>
    rename_i hf3
    exact decodedFrom_of_decodeSentinel hop hf3 h
  all_goals cases h
  all_goals
    rename_i hf3
    rw [hf3] at hw
    exact .of_encode_eq ⟨rfl, rfl, rfl⟩ rfl hw

/-- The inversion of the dispatch of R99. -/
theorem decodedFrom_of_decode (h : decode w = some i) : DecodedFrom w i := by
  unfold decode at h
  split at h
  all_goals rename_i hop
  case h_1 | h_2 =>
    have hw := encU_of_fields w
    rw [hop] at hw
    cases h
    exact .of_encode_eq ⟨rfl, rfl⟩ rfl hw
  case h_3 =>
    cases h
    exact .of_encode_eq ⟨rfl, rfl⟩ rfl (encJ_of_fields w hop)
  case h_4 => exact decodedFrom_of_decodeJalr hop h
  case h_5 => exact decodedFrom_of_decodeBranch hop h
  case h_6 => exact decodedFrom_of_decodeLoad hop h
  case h_7 => exact decodedFrom_of_decodeStore hop h
  case h_8 => exact decodedFrom_of_decodeOpImm hop h
  case h_9 => exact decodedFrom_of_decodeOp hop h
  case h_10 => exact decodedFrom_of_decodeMiscMem hop h
  case h_11 => exact decodedFrom_of_decodeSystem hop h
  case h_12 => cases h

end

/-! ## The immediates of a word (R91 to R95) -/

section
variable (w : Word)

theorem getLsbD_immI {j : Nat} (hj : j < 32) :
    (immI w).getLsbD j = if j < 11 then w.getLsbD (j + 20) else w.getLsbD 31 := by
  unfold immI
  interval_cases j <;> simp [getElem_sext, getElem_put]

theorem getLsbD_immS {j : Nat} (hj : j < 32) :
    (immS w).getLsbD j =
      if j < 5 then w.getLsbD (j + 7) else if j < 11 then w.getLsbD (j + 20) else w.getLsbD 31 := by
  unfold immS
  interval_cases j <;> simp [getElem_sext, getElem_put]

theorem getLsbD_immB {j : Nat} (hj : j < 32) :
    (immB w).getLsbD j =
      if j = 0 then false else if j < 5 then w.getLsbD (j + 7)
      else if j < 11 then w.getLsbD (j + 20) else if j = 11 then w.getLsbD 7 else w.getLsbD 31 := by
  unfold immB
  interval_cases j <;> simp [getElem_sext, getElem_put]

theorem getLsbD_immJ {j : Nat} (hj : j < 32) :
    (immJ w).getLsbD j =
      if j = 0 then false else if j < 11 then w.getLsbD (j + 20)
      else if j = 11 then w.getLsbD 20 else if j < 20 then w.getLsbD j else w.getLsbD 31 := by
  unfold immJ
  interval_cases j <;> simp [getElem_sext, getElem_put]

theorem immU_eq_and : immU w = w &&& 0xFFFFF000 := by
  unfold immU
  ext i hi
  interval_cases i <;> simp [getElem_put]

theorem immB_bit_zero : (immB w)[0] = false :=
  getLsbD_immB w (by decide)

theorem immJ_bit_zero : (immJ w)[0] = false :=
  getLsbD_immJ w (by decide)

theorem toInt_immI_range : -2048 ≤ (immI w).toInt ∧ (immI w).toInt < 2048 :=
  toInt_sext_range (n := 12) (by decide) (by decide) _

theorem toInt_immS_range : -2048 ≤ (immS w).toInt ∧ (immS w).toInt < 2048 :=
  toInt_sext_range (n := 12) (by decide) (by decide) _

theorem toInt_immB_range : -4096 ≤ (immB w).toInt ∧ (immB w).toInt < 4096 :=
  toInt_sext_range (n := 13) (by decide) (by decide) _

theorem toInt_immJ_range : -1048576 ≤ (immJ w).toInt ∧ (immJ w).toInt < 1048576 :=
  toInt_sext_range (n := 21) (by decide) (by decide) _

/-- A word whose bit 0 is 0 has an even signed value. -/
theorem toInt_even {v : Word} (h : v[0] = false) : v.toInt % 2 = 0 := by
  have hnat : v.toNat % 2 = 0 := by
    simpa [← BitVec.getLsbD_eq_getElem, BitVec.getLsbD, Nat.testBit_zero] using h
  rw [BitVec.toInt_eq_toNat_cond]
  split <;> omega

theorem isImm12_immI : isImm12 (immI w) = true :=
  (isImm12_iff _).2 (sext_sext (by decide) _)

theorem isImm12_immS : isImm12 (immS w) = true :=
  (isImm12_iff _).2 (sext_sext (by decide) _)

theorem isImmB_immB : isImmB (immB w) = true :=
  (isImmB_iff _).2 ⟨sext_sext (by decide) _, immB_bit_zero w⟩

theorem isImmJ_immJ : isImmJ (immJ w) = true :=
  (isImmJ_iff _).2 ⟨sext_sext (by decide) _, immJ_bit_zero w⟩

theorem isImmU_put (v : BitVec 20) : isImmU (put 12 v) = true :=
  (isImmU_iff _).2 (extract_put_disjoint 12 0 12 v (.inr (by decide)))

/-- An instruction whose operands are the fields of a word is well-formed. -/
theorem wf_of_operandsOf {w : Word} {i : Instr} (h : OperandsOf w i) : i.wf = true := by
  cases i
  case lui | auipc => exact h.2 ▸ isImmU_put _
  case jal => exact h.2 ▸ isImmJ_immJ w
  case beq | bne | blt | bge | bltu | bgeu => exact h.2.2 ▸ isImmB_immB w
  case jalr | lb | lh | lw | lbu | lhu | addi | slti | sltiu | xori | ori | andi =>
    exact h.2.2 ▸ isImm12_immI w
  case sb | sh | sw => exact h.2.2 ▸ isImm12_immS w
  all_goals rfl

end

/-! ## The round trip from the encoder's side -/

/-- No sentinel has the funct7 of SFENCE.VMA (R106). -/
theorem decodeSentinel_of_funct7 {w : Word} (h : funct7Of w = 0b0001001#7) :
    decodeSentinel w = some (.sfenceVma (rs1Of w) (rs2Of w)) := by
  have htop := (imm12_funct7 w).trans h
  unfold decodeSentinel
  split
  case h_7 => simp only [h]
  all_goals
    rename_i himm
    rw [himm] at htop
    exact absurd htop (by decide)

/-- Format by format: the decoder reads the selectors and the operands that the encoder placed, and
a well-formed immediate is the one its format reads back. -/
theorem decode_encode {i : Instr} (h : i.wf = true) : decode (encode i) = some i := by
  cases i
  case lui | auipc => simp [decode, encode, immU_encU _ _ _ h]
  case jal =>
    obtain ⟨himm, h0⟩ := (isImmJ_iff _).1 h
    simp [decode, encode, immJ_encJ _ _ h0, himm]
  case beq | bne | blt | bge | bltu | bgeu =>
    obtain ⟨himm, h0⟩ := (isImmB_iff _).1 h
    simp [decode, decodeBranch, encode, immB_encB _ _ _ _ h0, himm]
  case jalr | lb | lh | lw | lbu | lhu | addi | slti | sltiu | xori | ori | andi =>
    have himm := (isImm12_iff _).1 h
    simp [decode, decodeJalr, decodeLoad, decodeOpImm, encode, immI_encI, himm]
  case sb | sh | sw =>
    have himm := (isImm12_iff _).1 h
    simp [decode, decodeStore, encode, immS_encS, himm]
  case slli | srli | srai => simp [decode, decodeOpImm, encode]
  case add | sub | sll | slt | sltu | xor | srl | sra | or | and => simp [decode, decodeOp, encode]
  case fence | fenceI => simp [decode, decodeMiscMem, encode]
  case ecall | ebreak | uret | sret | wfi | mret =>
    simp [decode, decodeSystem, decodeSentinel, encode]
  case sfenceVma => simp [decode, decodeSystem, decodeSentinel_of_funct7, encode]
  case csrrw | csrrs | csrrc | csrrwi | csrrsi | csrrci => simp [decode, decodeSystem, encode]

/-! ## The rows of the opcode table (R110) -/

/-- No two rows of the opcode table have the same mnemonic. -/
theorem opcodeTable_mnemonics : opcodeTable.Pairwise (fun r q => r.mnemonic ≠ q.mnemonic) := by
  decide

section
variable {w : Word} {i : Instr} {row : TableRow}

/-- A field that a row's mask covers is, in every word the row accepts, that of its fixed bits. -/
theorem extract_of_accepts (ha : row.accepts w = true) {start len : Nat}
    (hm : row.mask.extractLsb' start len = BitVec.allOnes len) :
    w.extractLsb' start len = row.fixed.extractLsb' start len := by
  have hw : w &&& row.mask = row.fixed := eq_of_beq ha
  rw [← hw, BitVec.extractLsb'_and, hm, BitVec.and_allOnes]

/-- A word that a row accepts decodes to the row's mnemonic: the row fixes the selectors on the
decoder's path. -/
theorem mnemonic_decode_of_accepts (hr : row ∈ opcodeTable) (ha : row.accepts w = true) :
    (decode w).map Instr.mnemonic = some row.mnemonic := by
  have hop := extract_of_accepts ha (start := 0) (len := 7)
  have hf3 := extract_of_accepts ha (start := 12) (len := 3)
  have hf7 := extract_of_accepts ha (start := 25) (len := 7)
  have himm := extract_of_accepts ha (start := 20) (len := 12)
  simp only [opcodeTable, List.mem_append] at hr
  obtain ((((hr | hr) | hr) | hr) | hr) | hr := hr
  · fin_cases hr <;>
      simp [decode, decodeJalr, decodeBranch, opcodeOf, funct3Of, hop, hf3, Instr.mnemonic]
  · fin_cases hr <;>
      simp [decode, decodeLoad, decodeStore, opcodeOf, funct3Of, hop, hf3, Instr.mnemonic]
  · fin_cases hr <;>
      simp [decode, decodeOpImm, opcodeOf, funct3Of, funct7Of, hop, hf3, hf7, Instr.mnemonic]
  · fin_cases hr <;>
      simp [decode, decodeOp, opcodeOf, funct3Of, funct7Of, hop, hf3, hf7, Instr.mnemonic]
  · fin_cases hr
    rotate_right
    · have hsfence := decodeSentinel_of_funct7 (hf7 rfl)
      simp [decode, decodeSystem, hsfence, opcodeOf, funct3Of, hop, hf3, Instr.mnemonic]
    all_goals
      simp [decode, decodeMiscMem, decodeSystem, decodeSentinel, opcodeOf, funct3Of, imm12Of, hop,
        hf3, himm, Instr.mnemonic]
  · fin_cases hr <;> simp [decode, decodeSystem, opcodeOf, funct3Of, hop, hf3, Instr.mnemonic]

/-- The family of Sys2Proof/Laws/PerInstr.lean, for every instruction. -/
theorem encode_matches_row (i : Instr) : Laws.EncodeMatchesRow.Statement i := by
  open Laws.EncodeMatchesRow in
  cases i
  exacts [lui _ _, auipc _ _, jal _ _, jalr _ _ _, beq _ _ _, bne _ _ _, blt _ _ _, bge _ _ _,
    bltu _ _ _, bgeu _ _ _, lb _ _ _, lh _ _ _, lw _ _ _, lbu _ _ _, lhu _ _ _, sb _ _ _, sh _ _ _,
    sw _ _ _, addi _ _ _, slti _ _ _, sltiu _ _ _, xori _ _ _, ori _ _ _, andi _ _ _, slli _ _ _,
    srli _ _ _, srai _ _ _, add _ _ _, sub _ _ _, sll _ _ _, slt _ _ _, sltu _ _ _, xor _ _ _,
    srl _ _ _, sra _ _ _, or _ _ _, and _ _ _, fence _ _, fenceI, ecall, ebreak, uret, sret, wfi,
    mret, sfenceVma _ _, csrrw _ _ _, csrrs _ _ _, csrrc _ _ _, csrrwi _ _ _, csrrsi _ _ _,
    csrrci _ _ _]

/-- The bits that an instruction's row compares are among its kept bits. -/
theorem keptBits_and_mask (hr : row ∈ opcodeTable) (hm : row.mnemonic = i.mnemonic) :
    keptBits i &&& row.mask = row.mask := by
  have hfence : ∀ r ∈ opcodeTable, r.mnemonic = "FENCE" → 0x0FF0707F &&& r.mask = r.mask := by
    decide
  have hfenceI : ∀ r ∈ opcodeTable, r.mnemonic = "FENCE.I" → 0x0000707F &&& r.mask = r.mask := by
    decide
  have hsfence : ∀ r ∈ opcodeTable, 0xFFFFF07F &&& r.mask = r.mask := by decide
  have hsentinel : ∀ r ∈ opcodeTable, 0xFFF0707F &&& r.mask = r.mask := by decide
  cases i
  case fence => exact hfence row hr hm
  case fenceI => exact hfenceI row hr hm
  case sfenceVma => exact hsfence row hr
  case ecall | ebreak | uret | sret | wfi | mret => exact hsentinel row hr
  all_goals exact BitVec.allOnes_and

/-- A word that decodes is accepted by a row, since it agrees with the word the encoder writes on
every bit that the row compares. -/
theorem accepts_of_decode (h : decode w = some i) : ∃ row ∈ opcodeTable, row.accepts w = true := by
  obtain ⟨row, hr, hm, ha⟩ := encode_matches_row i
  refine ⟨row, hr, beq_iff_eq.2 ?_⟩
  calc w &&& row.mask
    _ = w &&& keptBits i &&& row.mask := by rw [BitVec.and_assoc, keptBits_and_mask hr hm]
    _ = encode i &&& row.mask := by rw [(decodedFrom_of_decode h).encode_eq]
    _ = row.fixed := eq_of_beq ha

end

/-! ## The decoder on bytes (R80, R55) -/

theorem wordOfBytes_bytesOfWord (w : Word) :
    wordOfBytes (w.extractLsb' 0 8) (w.extractLsb' 8 8) (w.extractLsb' 16 8) (w.extractLsb' 24 8) =
      w := by
  unfold wordOfBytes
  simp (disch := omega) only [BitVec.or_comm (put 0 _), put_extract_or_adjacent, put_extract_all]

/-! ## The expansion of `li` (R115) -/

/-- A word whose low 12 bits are 0 is its upper field. -/
theorem put_extract_of_isImmU {v : Word} (h : isImmU v = true) :
    put 12 (v.extractLsb' 12 20) = v := by
  have hv : put 12 (v.extractLsb' 12 20) ||| put 0 (v.extractLsb' 0 12) = v := by
    simp (disch := omega) only [put_extract_or_adjacent, put_extract_all]
  rwa [(isImmU_iff v).1 h, put_ofNat_zero, BitVec.or_zero] at hv

/-- `imm` and `lo` have the same low 12 bits. -/
theorem isImmU_sub_lo (imm : Word) : isImmU (imm - Pseudo.lo imm) = true := by
  have hlow : imm.setWidth 12 = (imm - Pseudo.lo imm).setWidth 12 + imm.setWidth 12 := by
    calc imm.setWidth 12
      _ = (imm - Pseudo.lo imm + Pseudo.lo imm).setWidth 12 := by rw [BitVec.sub_add_cancel]
      _ = (imm - Pseudo.lo imm).setWidth 12 + (Pseudo.lo imm).setWidth 12 :=
        BitVec.setWidth_add _ _ (by decide)
      _ = (imm - Pseudo.lo imm).setWidth 12 + imm.setWidth 12 := by
        rw [Pseudo.lo, BitVec.setWidth_eq_extractLsb' (x := sext 12 imm) (by decide),
          extract_sext imm (by decide) (by decide), ← BitVec.setWidth_eq_extractLsb' (by decide)]
  rw [isImmU_iff, ← BitVec.setWidth_eq_extractLsb' (by decide)]
  exact right_eq_add.1 hlow

theorem hi_add_lo (imm : Word) : Pseudo.hi imm + Pseudo.lo imm = imm := by
  rw [Pseudo.hi, put_extract_of_isImmU (isImmU_sub_lo imm), BitVec.sub_add_cancel]

theorem pLi_wf (rd : RegIdx) (imm : Word) : ∀ i ∈ Pseudo.pLi rd imm, i.wf = true := by
  unfold Pseudo.pLi
  split
  case isTrue h => simpa [Instr.wf, isImm12_iff] using h
  case isFalse =>
    have hhi : isImmU (Pseudo.hi imm) = true := isImmU_put _
    have hlo : isImm12 (Pseudo.lo imm) = true := (isImm12_iff _).2 (sext_sext (by decide) imm)
    simp [Instr.wf, hhi, hlo]

/-- The later of two writes of one register is the one that counts. -/
theorem State.writeReg_writeReg (s : State) (r : RegIdx) (u v : Word) :
    (s.writeReg r u).writeReg r v = s.writeReg r v := by
  unfold State.writeReg
  split
  · rfl
  · simp [State.withRegs]

/-- Either expansion writes the constant to `rd`; the longer one first writes its upper part
there. -/
theorem execAll_pLi (s : State) (rd : RegIdx) (imm : Word) :
    execAll (Pseudo.pLi rd imm) s = .next (s.writeReg rd imm) := by
  unfold Pseudo.pLi
  split
  · change Host.Outcome.next (s.writeReg rd (s.readReg 0#5 + imm)) = _
    rw [State.readReg_zero, BitVec.zero_add]
  · change Host.Outcome.next ((s.writeReg rd (Pseudo.hi imm)).writeReg rd
      ((s.writeReg rd (Pseudo.hi imm)).readReg rd + Pseudo.lo imm)) = _
    rw [State.writeReg_writeReg]
    by_cases hrd : rd = 0
    · subst hrd
      rfl
    · rw [State.readReg_writeReg, if_neg hrd, if_pos rfl, hi_add_lo]

/-! ## The obligations -/

/-- Settles O1, format by format. -/
theorem decodeOfEncodeIsTheInstruction : Obligations.DecodeOfEncodeIsTheInstruction :=
  fun _ => decode_encode

/-- Settles O2: a row that accepts the word fixes the mnemonic, so no two rows accept it, and a word
that decodes is accepted by the row of its instruction. -/
theorem decodeAgreesWithOpcodeTable : Obligations.DecodeAgreesWithOpcodeTable := by
  intro w
  constructor
  · cases hf : opcodeTable.find? (·.accepts w) with
    | some row =>
      exact mnemonic_decode_of_accepts (List.mem_of_find?_eq_some hf)
        (List.find?_some (p := fun r : TableRow => r.accepts w) hf)
    | none =>
      cases hd : decode w with
      | none => rfl
      | some i =>
        obtain ⟨row, hr, ha⟩ := accepts_of_decode hd
        exact absurd ha (List.find?_eq_none.1 hf row hr)
  · refine opcodeTable_mnemonics.imp_of_mem fun hr hq hne ⟨har, haq⟩ => hne ?_
    exact Option.some.inj
      ((mnemonic_decode_of_accepts hr har).symm.trans (mnemonic_decode_of_accepts hq haq))

/-- Settles O3: the encoder writes back the kept bits of the word. -/
theorem encodeOfDecodeAgreesOnKeptBits : Obligations.EncodeOfDecodeAgreesOnKeptBits := by
  intro w i h
  obtain ⟨hops, henc⟩ := decodedFrom_of_decode h
  exact ⟨wf_of_operandsOf hops, by rw [henc, BitVec.and_assoc, BitVec.and_self]⟩

/-- Settles O4, by the inversion of the dispatch. -/
theorem decodedOperandsAreTheWordFields : Obligations.DecodedOperandsAreTheWordFields :=
  fun _ _ h => (decodedFrom_of_decode h).operands

/-- Settles O5: bit by bit, and a sign extension from 12 bits lies in their range. -/
theorem immediatesIAndSAreSignExtendedFields :
    Obligations.ImmediatesIAndSAreSignExtendedFields := by
  intro w
  obtain ⟨hIlo, hIhi⟩ := toInt_immI_range w
  obtain ⟨hSlo, hShi⟩ := toInt_immS_range w
  refine ⟨fun _ => getLsbD_immI w, fun _ => getLsbD_immS w, hIlo, Int.le_of_lt_add_one hIhi, hSlo,
    Int.le_of_lt_add_one hShi, fun h => ?_, fun h => ?_⟩
  all_goals
    rw [immI, h]
    decide

/-- Settles O6: bit by bit, and a sign extension from 13 bits that is even. -/
theorem immediateBIsAnEvenByteOffset : Obligations.ImmediateBIsAnEvenByteOffset := by
  intro w
  obtain ⟨hlo, hhi⟩ := toInt_immB_range w
  have heven := toInt_even (immB_bit_zero w)
  exact ⟨fun _ => getLsbD_immB w, hlo, by omega, heven⟩

/-- Settles O7: bit by bit, and a sign extension from 21 bits that is even. -/
theorem immediatesUAndJFollowTheirFormats : Obligations.ImmediatesUAndJFollowTheirFormats := by
  intro w
  obtain ⟨hlo, hhi⟩ := toInt_immJ_range w
  have heven := toInt_even (immJ_bit_zero w)
  exact ⟨immU_eq_and w, fun _ => getLsbD_immJ w, hlo, by omega, heven⟩

/-- Settles O54: the expansion ends in the one register write. -/
theorem liExpansionLoadsTheConstant : Obligations.LiExpansionLoadsTheConstant :=
  fun s rd imm => ⟨pLi_wf rd imm, _, execAll_pLi s rd imm, regsAfter_writeReg rd imm fun _ => rfl,
    State.readCsr_writeReg s rd imm, State.byteAt_writeReg s rd imm⟩

/-- Settles O8: the decoder computes each. -/
theorem specDecodeExamples : Obligations.SpecDecodeExamples := by
  unfold Obligations.SpecDecodeExamples
  decide

/-- Settles O9: the four bytes make the word again. -/
theorem decodeBytesReadsOneLittleEndianWord : Obligations.DecodeBytesReadsOneLittleEndianWord := by
  intro w rest
  refine ⟨fun i h => ?_, fun h => ?_⟩
  all_goals
    simp only [bytesOfWord, List.cons_append, List.nil_append, decodeBytes, wordOfBytes_bytesOfWord,
      h]

end Sys2Proof.Machine

/-!
The integer instructions (spec/40_integer.md): which register an instruction may change and when it
completes, from the shapes of Sys2Proof/Machine/Operands.lean; then each result as the arithmetic,
bit by bit or by comparison, that the spec states it with. Every integer instruction is one register
write, so `writesOnlyReg_of_writeReg` gives its frame.
-/

namespace Sys2Proof.Machine

/-! ## What any instruction may change, and when it completes -/

section
variable {i : Instr} {s t : State}

/-- A write of `rd` leaves every other register, x0 among them, as it was. -/
theorem RegsAfter.readReg_of_ne {rd r : RegIdx} {v : Word} (h : RegsAfter s t rd v) (hr : r ≠ rd) :
    t.readReg r = s.readReg r := by
  rw [h r]
  by_cases h0 : r = 0
  · rw [if_pos h0, h0]
    exact s.readReg_zero.symm
  · rw [if_neg h0, if_neg hr]

/-- An instruction whose bytes, if it accesses any, are in the store has no way left to halt. -/
theorem exec_completes (h : ∀ base imm n, accessOf i = some (base, imm, n) →
    InStore s (s.readReg base + imm) n) : ∃ t, exec i s = .next t := by
  cases he : exec i s with
  | next t => exact ⟨t, rfl⟩
  | fault r =>
    obtain ⟨base, imm, n, ha, hn, -⟩ := exec_fault_cases he
    exact absurd (h base imm n ha) hn
  | refused r => exact absurd he (exec_ne_refused i s r)

/-- Only loads and stores have an access (R58). -/
theorem load_or_store_of_accessOf {a : RegIdx × Word × Nat} (h : accessOf i = some a) :
    familyOf i = .load ∨ familyOf i = .store := by
  cases i
  case lb | lh | lw | lbu | lhu => exact .inl rfl
  case sb | sh | sw => exact .inr rfl
  all_goals cases h

/-- A load or store whose bytes are not all in the store halts with its effective address (R191). -/
theorem exec_of_not_inStore {base : RegIdx} {imm : Word} {n : Nat}
    (ha : accessOf i = some (base, imm, n)) (hn : ¬InStore s (s.readReg base + imm) n) :
    exec i s = .fault (accessFault i (s.readReg base + imm) s.pc) := by
  cases exec_shape i s with
  | load w _ _ _ _ hf _ ha' he =>
    cases ha'.symm.trans ha
    rw [he, loadTo_of_memRead_none (memRead_of_not_inStore hn)]
    simp [accessFault, hf]
  | store w _ _ _ hf ha' he =>
    cases ha'.symm.trans ha
    rw [he, storeFrom_of_memWrite_none (memWrite_of_not_inStore hn)]
    simp [accessFault, hf]
  | result _ _ hf | jump _ _ hf | branch _ _ hf | csr _ _ _ hf | trap _ hf | noop hf =>
    simpa [hf] using load_or_store_of_accessOf ha

/-- A register write has the frame of `WritesOnlyRegBits`, with the bits of the value. -/
theorem writesOnlyRegBits_of_writeReg {rd : RegIdx} {v : Word} {bit : Nat → Bool}
    (h : exec i s = .next (s.writeReg rd v)) (hbit : ∀ j < 32, v.getLsbD j = bit j) :
    WritesOnlyRegBits i s rd bit :=
  ⟨v, writesOnlyReg_of_writeReg h, hbit⟩

end

/-! ## Results as arithmetic (R131, R135 to R138) -/

section
variable (a b : Word)

theorem ofNat_toNat_add : BitVec.ofNat 32 (a.toNat + b.toNat) = a + b := by
  rw [BitVec.ofNat_add, BitVec.ofNat_toNat, BitVec.ofNat_toNat, BitVec.setWidth_eq, BitVec.setWidth_eq]

theorem ofInt_signed_add : BitVec.ofInt 32 (signed a + signed b) = a + b := by
  rw [BitVec.ofInt_add, BitVec.ofInt_toInt, BitVec.ofInt_toInt]

theorem ofInt_signed_sub : BitVec.ofInt 32 (signed a - signed b) = a - b := by
  rw [Int.sub_eq_add_neg, BitVec.ofInt_add, BitVec.ofInt_neg, BitVec.ofInt_toInt, BitVec.ofInt_toInt,
    BitVec.sub_eq_add_neg]

theorem boolWord_ltSigned : boolWord (ltSigned a b) = if signed a < signed b then 1 else 0 := by
  simp only [boolWord, ltSigned, decide_eq_true_eq]

theorem boolWord_ltUnsigned :
    boolWord (ltUnsigned a b) = if unsigned a < unsigned b then 1 else 0 := by
  simp only [boolWord, ltUnsigned, decide_eq_true_eq]

end

/-- The low 12 bits of a U immediate are 0 (R94). -/
theorem getLsbD_of_isImmU {imm : Word} (h : isImmU imm = true) {j : Nat} (hj : j < 12) :
    imm.getLsbD j = false := by
  have hbit := congrArg (·.getLsbD j) ((isImmU_iff imm).1 h)
  simpa [hj] using hbit

/-! ## The bits of a shift (R13, R132) -/

section
variable (v : Word) (n : BitVec 5) {j : Nat}

theorem getLsbD_shiftLeft (hj : j < 32) :
    (shiftLeft v n).getLsbD j = (decide (n.toNat ≤ j) && v.getLsbD (j - n.toNat)) := by
  rw [shiftLeft, BitVec.getLsbD_shiftLeft, decide_eq_true hj, Bool.true_and, ← decide_not,
    decide_eq_decide.2 Nat.not_lt]

/-- Of every `j`: a bit past the word reads 0, like the zeros shifted in. -/
theorem getLsbD_shiftRightLogical :
    (shiftRightLogical v n).getLsbD j = (decide (j + n.toNat < 32) && v.getLsbD (j + n.toNat)) := by
  rw [shiftRightLogical, BitVec.getLsbD_ushiftRight, Nat.add_comm]
  by_cases h : j + n.toNat < 32
  · rw [decide_eq_true h, Bool.true_and]
  · rw [decide_eq_false h, Bool.false_and]
    exact BitVec.getLsbD_of_ge _ _ (Nat.le_of_not_lt h)

theorem getLsbD_shiftRightArith (hj : j < 32) :
    (shiftRightArith v n).getLsbD j =
      if j + n.toNat < 32 then v.getLsbD (j + n.toNat) else v.getLsbD 31 := by
  rw [shiftRightArith, BitVec.getLsbD_sshiftRight, Nat.add_comm, BitVec.msb_eq_getLsbD_last,
    decide_eq_false (Nat.not_le.2 hj), Bool.not_false, Bool.true_and]

end

/-- The low five bits of the register are its value modulo 32. -/
theorem toNat_regShamt (rs2 : RegIdx) (s : State) :
    (regShamt rs2 s).toNat = (s.readReg rs2).toNat % 32 :=
  BitVec.extractLsb'_toNat 0 5 _

/-! ## The obligations -/

/-- Settles O27: a completed instruction changes no register or writes its destination. -/
theorem onlyTheDestinationRegisterChanges : Obligations.OnlyTheDestinationRegisterChanges := by
  intro i s t he r hr
  rcases exec_next_regs he with hsame | ⟨rd, v, hrd, hregs⟩
  · exact hsame r
  · exact hregs.readReg_of_ne fun h => hr (h ▸ hrd)

/-- Settles O33: no instruction refuses, and the one way to halt is an access out of the store. -/
theorem onlyOutOfRangeAccessesFail : Obligations.OnlyOutOfRangeAccessesFail := by
  refine fun i s => ⟨fun hnone => ?_, fun base imm n ha => ⟨fun hin => ?_, exec_of_not_inStore ha⟩⟩
  · refine exec_completes fun base imm n ha => ?_
    cases hnone.symm.trans ha
  · refine exec_completes fun base' imm' n' ha' => ?_
    cases ha.symm.trans ha'
    exact hin

/-- Settles O35: AUIPC's exact sum is reduced modulo 2^32. -/
theorem luiAndAuipcResults : Obligations.LuiAndAuipcResults := by
  intro s rd imm
  refine ⟨writesOnlyReg_of_writeReg rfl, fun hwf _ => getLsbD_of_isImmU hwf, ?auipc⟩
  case auipc =>
    rw [ofNat_toNat_add]
    exact writesOnlyReg_of_writeReg rfl

/-- Settles O36: word addition and subtraction are the low 32 bits of the exact ones. -/
theorem addAndSubResults : Obligations.AddAndSubResults := by
  intro s rd rs1 rs2 imm
  rw [ofInt_signed_add, ofInt_signed_add, ofInt_signed_sub]
  refine ⟨writesOnlyReg_of_writeReg rfl, writesOnlyReg_of_writeReg rfl,
    writesOnlyReg_of_writeReg rfl, ?comm⟩
  case comm => exact congrArg (writeResult rd · s) (BitVec.add_comm _ _)

/-- Settles O37: the word operations are bitwise. -/
theorem logicResults : Obligations.LogicResults := fun _ _ _ _ _ =>
  ⟨writesOnlyRegBits_of_writeReg rfl fun _ _ => BitVec.getLsbD_xor,
    writesOnlyRegBits_of_writeReg rfl fun _ _ => BitVec.getLsbD_or,
    writesOnlyRegBits_of_writeReg rfl fun _ _ => BitVec.getLsbD_and,
    writesOnlyRegBits_of_writeReg rfl fun _ _ => BitVec.getLsbD_xor,
    writesOnlyRegBits_of_writeReg rfl fun _ _ => BitVec.getLsbD_or,
    writesOnlyRegBits_of_writeReg rfl fun _ _ => BitVec.getLsbD_and⟩

/-- Settles O38: the comparison word is 1 or 0 as the numbers compare. -/
theorem compareResults : Obligations.CompareResults := by
  intro s rd rs1 rs2 imm
  simp only [← boolWord_ltSigned, ← boolWord_ltUnsigned]
  exact ⟨writesOnlyReg_of_writeReg rfl, writesOnlyReg_of_writeReg rfl,
    writesOnlyReg_of_writeReg rfl, writesOnlyReg_of_writeReg rfl⟩

/-- Settles O39: both forms of a shift are the one shift of a word by a 5-bit amount. -/
theorem shiftResults : Obligations.ShiftResults := by
  intro s rd rs1 rs2 shamt x n
  have hn : (regShamt rs2 s).toNat = n := toNat_regShamt rs2 s
  rw [← hn]
  exact ⟨writesOnlyRegBits_of_writeReg rfl fun _ => getLsbD_shiftLeft x shamt,
    writesOnlyRegBits_of_writeReg rfl fun _ _ => getLsbD_shiftRightLogical x shamt,
    writesOnlyRegBits_of_writeReg rfl fun _ => getLsbD_shiftRightArith x shamt,
    writesOnlyRegBits_of_writeReg rfl fun _ => getLsbD_shiftLeft x (regShamt rs2 s),
    writesOnlyRegBits_of_writeReg rfl fun _ _ => getLsbD_shiftRightLogical x (regShamt rs2 s),
    writesOnlyRegBits_of_writeReg rfl fun _ => getLsbD_shiftRightArith x (regShamt rs2 s)⟩

end Sys2Proof.Machine

/-!
The control transfers (spec/41_control.md R170 to R182). A jump is one `jumpAndLink` and a branch one
`branchIf`, so each shape's result and frame are proved once; what is left for each instruction is
its target, or what its condition says of the two registers.
-/

namespace Sys2Proof.Machine

/-! ## The two shapes and their frames -/

section
variable {i : Instr} {s : State}

/-- The link is the old successor address, so it is read before `next_pc` is written (R170). -/
theorem jumpsTo_of_jumpAndLink {rd : RegIdx} {target : Word}
    (he : exec i s = jumpAndLink rd target s) : JumpsTo i s rd target :=
  ⟨_, he, regsAfter_writeReg rd s.nextPc (s.readReg_withNextPc target),
    State.readCsr_writeReg _ rd s.nextPc, State.byteAt_writeReg _ rd s.nextPc,
    by simp [SameControl], by simp⟩

/-- A branch taken exactly where `cond` holds has the result and frame of `BranchesWhen` (R176). -/
theorem branchesWhen_of_branchIf {taken : Bool} {imm : Word} {cond : Prop}
    (he : exec i s = branchIf taken imm s) (hcond : taken = true ↔ cond) :
    BranchesWhen i s imm cond := by
  unfold BranchesWhen
  rw [← hcond, ofNat_toNat_add]
  cases taken with
  | false =>
    exact ⟨s, he, fun _ => rfl, fun _ => rfl, fun _ => rfl, ⟨rfl, rfl, rfl⟩, nofun, fun _ => rfl⟩
  | true =>
    exact ⟨s.withNextPc (s.pc + imm), he, fun _ => rfl, fun _ => rfl, fun _ => rfl, ⟨rfl, rfl, rfl⟩,
      fun _ => rfl, fun hnot => absurd rfl hnot⟩

end

/-! ## Comparisons as conditions (R13) -/

section
variable (a b : Word)

theorem ltSigned_eq_true_iff : ltSigned a b = true ↔ signed a < signed b := decide_eq_true_iff

theorem ltUnsigned_eq_true_iff : ltUnsigned a b = true ↔ unsigned a < unsigned b :=
  decide_eq_true_iff

theorem not_ltSigned_eq_true_iff : (!ltSigned a b) = true ↔ signed a ≥ signed b := by
  rw [Bool.not_eq_true', ← Bool.not_eq_true, ltSigned_eq_true_iff, Int.not_lt]

theorem not_ltUnsigned_eq_true_iff : (!ltUnsigned a b) = true ↔ unsigned a ≥ unsigned b := by
  rw [Bool.not_eq_true', ← Bool.not_eq_true, ltUnsigned_eq_true_iff, Nat.not_lt]

end

/-! ## The obligations -/

/-- Settles O40: both jumps are one `jumpAndLink`, and exact sums are reduced modulo 2^32. -/
theorem jumpResults : Obligations.JumpResults := by
  intro s rd rs1 imm
  rw [ofNat_toNat_add, ofNat_toNat_add]
  refine ⟨jumpsTo_of_jumpAndLink rfl, jumpsTo_of_jumpAndLink rfl, ?successor⟩
  case successor => exact (ofNat_toNat_add s.pc 4).symm

/-- Settles O41: each branch is one `branchIf`, on the test its condition states. -/
theorem branchResults : Obligations.BranchResults := fun _ _ _ _ =>
  ⟨branchesWhen_of_branchIf rfl beq_iff_eq,
    branchesWhen_of_branchIf rfl bne_iff_ne,
    branchesWhen_of_branchIf rfl (ltSigned_eq_true_iff _ _),
    branchesWhen_of_branchIf rfl (not_ltSigned_eq_true_iff _ _),
    branchesWhen_of_branchIf rfl (ltUnsigned_eq_true_iff _ _),
    branchesWhen_of_branchIf rfl (not_ltUnsigned_eq_true_iff _ _)⟩

end Sys2Proof.Machine

/-!
The CSR instructions (spec/43_csr.md R210 to R218). All six are one `csrUpdate`, so the atomic
read-modify-write and its frame are proved once; what is left for each instruction is the bits of
the word it stores.
-/

namespace Sys2Proof.Machine

/-- Both results are taken from `s`, before either write, so `rd` gets the old value even where it
is also the source (R210). The address is any, and x0 as `rd` does not stop the CSR write (R211). -/
theorem updatesCsr_of_csrUpdate {i : Instr} {s : State} {rd : RegIdx} {a : CsrIdx}
    {bit : Nat → Bool} (new : Word → Word) (he : exec i s = csrUpdate rd a new s)
    (hbit : ∀ j < 32, (new (s.readCsr a)).getLsbD j = bit j) : UpdatesCsr i s rd a bit := by
  have hcsrs : CsrsAfter s ((s.writeCsr a (new (s.readCsr a))).writeReg rd (s.readCsr a)) a
      (new (s.readCsr a)) := fun b =>
    (State.readCsr_writeReg _ rd _ b).trans (csrsAfter_writeCsr s a _ b)
  exact ⟨_, _, he, regsAfter_writeReg rd _ (s.readReg_writeCsr a _), hcsrs,
    State.byteAt_writeReg _ rd _, by simp [SameControl], by simp, hbit⟩

/-! ## The bits of the stored word (R210) -/

/-- The immediate source is zero-extended. -/
theorem getLsbD_zimmWord (zimm : BitVec 5) {j : Nat} (hj : j < 32) :
    (zimmWord zimm).getLsbD j = (decide (j < 5) && zimm.getLsbD j) := by
  rw [zimmWord, BitVec.getLsbD_setWidth, decide_eq_true hj, Bool.true_and]
  by_cases h : j < 5
  · rw [decide_eq_true h, Bool.true_and]
  · rw [decide_eq_false h, Bool.false_and]
    exact BitVec.getLsbD_of_ge _ _ (Nat.le_of_not_lt h)

/-- The bits CSRRC and CSRRCI keep are those the source has clear. -/
theorem getLsbD_and_not (v m : Word) {j : Nat} (hj : j < 32) :
    (v &&& ~~~m).getLsbD j = (v.getLsbD j && !m.getLsbD j) := by
  rw [BitVec.getLsbD_and, BitVec.getLsbD_not, decide_eq_true hj, Bool.true_and]

/-! ## The obligation -/

/-- Settles O47: each instruction is one `csrUpdate`, and the word it stores is given bit by bit. -/
theorem csrResults : Obligations.CsrResults := by
  intro s rd rs1 zimm a
  refine ⟨updatesCsr_of_csrUpdate (fun _ => s.readReg rs1) rfl fun _ _ => rfl,
    updatesCsr_of_csrUpdate (· ||| s.readReg rs1) rfl fun _ _ => BitVec.getLsbD_or,
    updatesCsr_of_csrUpdate (· &&& ~~~(s.readReg rs1)) rfl fun _ => getLsbD_and_not _ _,
    updatesCsr_of_csrUpdate (fun _ => zimmWord zimm) rfl fun _ => getLsbD_zimmWord zimm,
    updatesCsr_of_csrUpdate (· ||| zimmWord zimm) rfl fun j hj => ?setBits,
    updatesCsr_of_csrUpdate (· &&& ~~~(zimmWord zimm)) rfl fun j hj => ?clearBits⟩
  case setBits => rw [BitVec.getLsbD_or, getLsbD_zimmWord zimm hj]
  case clearBits => rw [getLsbD_and_not _ _ hj, getLsbD_zimmWord zimm hj]

end Sys2Proof.Machine

/-!
Exceptions and halts (spec/60_exceptions.md R260 to R281): each branch of the cycle as an equation
of `step`, the halting cycle, and what an exception entry and a trap return leave in MSTATUS and the
registers they save to.
-/

namespace Sys2Proof.Machine

/-! ## The branches of the cycle (R260 to R262) -/

section
variable {i : Instr} {s t : State} {w : Word} {r : Fault}

theorem step_of_fetch_none (hs : s.status = .running) (hw : busFetch s = none) :
    step s = .fault (.fetchError s.pc) := by
  simp only [step, hs, hw]

theorem step_of_decode_none (hs : s.status = .running) (hw : busFetch s = some w)
    (hd : decode w = none) : step s = .fault (.decodeError w s.pc) := by
  simp only [step, hs, hw, hd]

theorem step_of_exec_next (hs : s.status = .running) (hw : busFetch s = some w)
    (hi : decode w = some i) (he : exec i (beginCycle s) = .next t) :
    step s = .next (commitPc t) := by
  rw [step_of_decode hs hw hi, he, commitOutcome]

theorem step_of_exec_fault (hs : s.status = .running) (hw : busFetch s = some w)
    (hi : decode w = some i) (he : exec i (beginCycle s) = .fault r) : step s = .fault r := by
  rw [step_of_decode hs hw hi, he, commitOutcome]

/-- The halt of an access out of the store does not depend on the default successor. -/
theorem exec_beginCycle_of_not_inStore {base : RegIdx} {imm : Word} {n : Nat}
    (ha : accessOf i = some (base, imm, n)) (hn : ¬InStore s (s.readReg base + imm) n) :
    exec i (beginCycle s) = .fault (accessFault i (s.readReg base + imm) s.pc) :=
  exec_of_not_inStore (s := beginCycle s) ha hn

end

/-! ## Which instructions route a trap (R265) -/

section
variable {i : Instr} {s t : State}

/-- Only CSR instructions and traps write the CSR file: any other commutes with writing back the
file it found. -/
theorem exec_next_csr (h : exec i s = .next t) (hc : familyOf i ≠ .csr) (ht : familyOf i ≠ .trap) :
    t.csr = s.csr := by
  have hcomm : exec i (s.withCsrs s.csr) = mapNext (·.withCsrs s.csr) (exec i s) :=
    onlyCsrInstructionsAndTrapsUseCsrs.1 i s s.csr hc ht
  have hself : s.withCsrs s.csr = s := rfl
  rw [hself, h, mapNext_next, Host.Outcome.next.injEq] at hcomm
  calc t.csr
    _ = (t.withCsrs s.csr).csr := congrArg State.csr hcomm
    _ = s.csr := rfl

/-- ECALL and EBREAK take an exception; URET and SRET return. -/
theorem exec_trap_cases (h : exec i s = .next t) (hf : familyOf i = .trap) :
    (i = .ecall ∧ t = exceptionEntry .ecallFromM s.pc s.pc s) ∨
    (i = .ebreak ∧ t = exceptionEntry .breakpoint s.pc s.pc s) ∨ t = trapReturn s := by
  cases i
  case ecall =>
    cases h
    exact .inl ⟨rfl, rfl⟩
  case ebreak =>
    cases h
    exact .inr (.inl ⟨rfl, rfl⟩)
  case uret | sret =>
    cases h
    exact .inr (.inr rfl)
  all_goals cases hf

theorem exec_exception (he : i = .ecall ∨ i = .ebreak) (h : exec i s = .next t) :
    ∃ c, t = exceptionEntry c s.pc s.pc s := by
  rcases he with rfl | rfl <;> cases h
  · exact ⟨.ecallFromM, rfl⟩
  · exact ⟨.breakpoint, rfl⟩

theorem exec_return (hi : i = .uret ∨ i = .sret) (s : State) : exec i s = .next (trapReturn s) := by
  rcases hi with rfl | rfl <;> rfl

end

/-! ## Exception entry (R267, R268) -/

section
variable (c : Cause) (p v : Word) (s : State)

@[simp] theorem readCsr_mepc_exceptionEntry : (exceptionEntry c p v s).readCsr csrMepc = p := by
  rw [readCsr_exceptionEntry, if_neg (by decide), if_pos rfl]

@[simp] theorem readCsr_mcause_exceptionEntry :
    (exceptionEntry c p v s).readCsr csrMcause = causeCode c := by
  rw [readCsr_exceptionEntry, if_neg (by decide), if_neg (by decide), if_pos rfl]

@[simp] theorem readCsr_mtval_exceptionEntry : (exceptionEntry c p v s).readCsr csrMtval = v := by
  rw [readCsr_exceptionEntry, if_pos rfl]

theorem readCsr_exceptionEntry_of_ne {a : CsrIdx} (hstatus : a ≠ csrMstatus) (hepc : a ≠ csrMepc)
    (hcause : a ≠ csrMcause) (htval : a ≠ csrMtval) :
    (exceptionEntry c p v s).readCsr a = s.readCsr a := by
  rw [readCsr_exceptionEntry, if_neg htval, if_neg hepc, if_neg hcause, if_neg hstatus]

@[simp] theorem getMie_mstatus_exceptionEntry :
    getMie ((exceptionEntry c p v s).readCsr csrMstatus) = 0 := by
  ext i hi
  obtain rfl : i = 0 := by omega
  rw [getMie_zero_bit, getElem_mstatus_exceptionEntry, if_pos rfl]
  exact (BitVec.getElem_zero hi).symm

@[simp] theorem getMpie_mstatus_exceptionEntry :
    getMpie ((exceptionEntry c p v s).readCsr csrMstatus) = getMie (s.readCsr csrMstatus) := by
  ext i hi
  obtain rfl : i = 0 := by omega
  rw [getMpie_zero_bit, getMie_zero_bit, getElem_mstatus_exceptionEntry, if_neg (by decide),
    if_pos rfl]

theorem afterException_exceptionEntry :
    AfterException s (exceptionEntry c p v s) (causeCode c) p v := by
  refine ⟨readReg_exceptionEntry c p v s, fun _ => rfl, ⟨rfl, rfl, rfl⟩, trapTarget_eq _,
    readCsr_mepc_exceptionEntry c p v s, readCsr_mcause_exceptionEntry c p v s,
    readCsr_mtval_exceptionEntry c p v s, fun j hj => ?mstatus,
    fun _ => readCsr_exceptionEntry_of_ne c p v s⟩
  case mstatus =>
    rw [BitVec.getLsbD_eq_getElem hj, BitVec.getLsbD_eq_getElem hj,
      BitVec.getLsbD_eq_getElem (by decide)]
    exact getElem_mstatus_exceptionEntry c p v s j hj

end

/-! ## Trap return (R270) -/

section
variable (s : State)

@[simp] theorem getMie_mstatus_trapReturn :
    getMie ((trapReturn s).readCsr csrMstatus) = getMpie (s.readCsr csrMstatus) := by
  ext i hi
  obtain rfl : i = 0 := by omega
  rw [getMie_zero_bit, getMpie_zero_bit, getElem_mstatus_trapReturn, if_pos rfl]

@[simp] theorem getMpp_mstatus_trapReturn : getMpp ((trapReturn s).readCsr csrMstatus) = 0 := by
  ext i hi
  rw [getElem_getMpp _ i hi, getElem_mstatus_trapReturn, if_neg (by omega), if_pos (by omega)]
  exact (BitVec.getElem_zero hi).symm

theorem readCsr_trapReturn_of_ne {a : CsrIdx} (ha : a ≠ csrMstatus) :
    (trapReturn s).readCsr a = s.readCsr a := by
  rw [readCsr_trapReturn, if_neg ha]

theorem returnsFromTrap_of_trapReturn {i : Instr} (he : exec i s = .next (trapReturn s)) :
    ReturnsFromTrap i s := by
  refine ⟨trapReturn s, he, readReg_trapReturn s, fun _ => rfl, ⟨rfl, rfl, rfl⟩,
    trapReturn_nextPc s, fun j hj => ?mstatus, fun _ => readCsr_trapReturn_of_ne s⟩
  case mstatus =>
    rw [BitVec.getLsbD_eq_getElem hj, BitVec.getLsbD_eq_getElem hj,
      BitVec.getLsbD_eq_getElem (by decide)]
    exact getElem_mstatus_trapReturn s j hj

end

/-! ## The obligations -/

/-- Settles O14: the instruction halts on the access, so the step does, and its cycle sets the
status alone. -/
theorem outOfRangeAccessHaltsTheCycle : Obligations.OutOfRangeAccessHaltsTheCycle := by
  intro s w i base imm n hs hw hi ha hn
  exact cycle_of_fault (step_of_exec_fault hs hw hi (exec_beginCycle_of_not_inStore ha hn))

/-- Settles O15: the halting cycle sets the status, and the state it leaves is a fixed point. -/
theorem fatalHaltIsFinal : Obligations.FatalHaltIsFinal := by
  intro s r h n
  rw [Function.iterate_succ_apply, cycle_of_fault h]
  exact cycle_iterate_of_fatal (State.withStatus_status s _) n

/-- Settles O32: outside the CSR instructions and the traps the CSR file is kept, and of the traps
only the two exceptions write MCAUSE. -/
theorem onlyEcallAndEbreakRaiseExceptions : Obligations.OnlyEcallAndEbreakRaiseExceptions := by
  intro i s t h hcsr
  by_cases htrap : familyOf i = .trap
  · rcases exec_trap_cases h htrap with ⟨hi, rfl⟩ | ⟨hi, rfl⟩ | rfl
    · exact .inr (.inl ⟨hi, readCsr_mcause_exceptionEntry _ _ _ _⟩)
    · exact .inr (.inr ⟨hi, readCsr_mcause_exceptionEntry _ _ _ _⟩)
    · exact .inl (readCsr_trapReturn_of_ne s (by decide))
  · exact .inl (State.readCsr_congr (exec_next_csr h hcsr htrap) _)

/-- Settles O49: ECALL and EBREAK complete by the entry, with their own cause. -/
theorem exceptionEntryResults : Obligations.ExceptionEntryResults := fun s =>
  ⟨⟨_, rfl, afterException_exceptionEntry .ecallFromM s.pc s.pc s⟩,
    ⟨_, rfl, afterException_exceptionEntry .breakpoint s.pc s.pc s⟩,
    fun c p v => afterException_exceptionEntry c p v s⟩

/-- Settles O50: URET and SRET are both the one trap return, and MRET is a no-op. -/
theorem trapReturnResults : Obligations.TrapReturnResults := fun s =>
  ⟨returnsFromTrap_of_trapReturn s rfl, returnsFromTrap_of_trapReturn s rfl, rfl⟩

/-- Settles O51: the entry saved the pc in MEPC and MIE in MPIE, where the return reads them. -/
theorem trapReturnUndoesExceptionEntry : Obligations.TrapReturnUndoesExceptionEntry := by
  intro s t u e q he hq h hcsr
  obtain ⟨c, rfl⟩ := exec_exception he h
  have hmepc : u.readCsr csrMepc = s.pc :=
    (State.readCsr_congr hcsr _).trans (readCsr_mepc_exceptionEntry c s.pc s.pc s)
  have hmpie : getMpie (u.readCsr csrMstatus) = getMie (s.readCsr csrMstatus) :=
    (congrArg getMpie (State.readCsr_congr hcsr _)).trans
      (getMpie_mstatus_exceptionEntry c s.pc s.pc s)
  exact ⟨trapReturn u, exec_return hq u, hmepc, (getMie_mstatus_trapReturn u).trans hmpie,
    getMpp_mstatus_trapReturn u⟩

/-- Settles O52: the first entry cleared MIE, so the second saves 0 in MPIE. -/
theorem nestedExceptionLosesTheFirst : Obligations.NestedExceptionLosesTheFirst := by
  intro s t u v e he h hcsr hv
  obtain ⟨c, rfl⟩ := exec_exception he h
  cases hv
  have hmie : getMie (u.readCsr csrMstatus) = 0 :=
    (congrArg getMie (State.readCsr_congr hcsr _)).trans
      (getMie_mstatus_exceptionEntry c s.pc s.pc s)
  exact ⟨readCsr_mepc_exceptionEntry _ _ _ u, readCsr_mcause_exceptionEntry _ _ _ u,
    readCsr_mtval_exceptionEntry _ _ _ u, (getMpie_mstatus_exceptionEntry _ _ _ u).trans hmie,
    getMie_mstatus_exceptionEntry _ _ _ u⟩

/-- Settles O10: both ways an instruction can end are a branch of the cycle. -/
theorem stepRunsTheDecodedInstruction : Obligations.StepRunsTheDecodedInstruction :=
  fun _ _ _ hs hw hi => ⟨fun _ => step_of_exec_next hs hw hi, fun _ => step_of_exec_fault hs hw hi⟩

/-- Settles O12: the bus does not answer a fetch out of the store. -/
theorem fetchOutsideTheStoreHalts : Obligations.FetchOutsideTheStoreHalts := by
  intro s hs hn
  have hfetch : busFetch s = none := memRead_of_not_inStore (w := .word) hn
  have hstep : step s = .fault (.fetchError s.pc) := step_of_fetch_none hs hfetch
  exact ⟨hstep, cycle_of_fault hstep⟩

/-- Settles O13: the decode fails before anything is written. -/
theorem undecodableWordHalts : Obligations.UndecodableWordHalts := by
  intro s w hs hw hd
  have hstep : step s = .fault (.decodeError w s.pc) := step_of_decode_none hs hw hd
  exact ⟨hstep, cycle_of_fault hstep⟩

end Sys2Proof.Machine

/-!
Reset and the run loop (spec/70_reset_and_hazards.md R300 to R305): what reset puts in each part of
the state, the branches of the loop as equations, and the one induction of the loop, which passes
over the quiet cycles.
-/

namespace Sys2Proof.Machine

/-! ## Reset (R300, R303) -/

section
variable {p : Params} {image : List Byte}

theorem resetWith_of_fits (h : image.length ≤ p.memSize) :
    resetWith p image = some ((State.reset.withParams p).withMem (loadBytes [] memBase image)) :=
  if_pos h

theorem resetWith_of_too_long (h : p.memSize < image.length) : resetWith p image = none :=
  if_neg (Nat.not_le.2 h)

@[simp] theorem State.reset_readReg (r : RegIdx) : State.reset.readReg r = 0#32 := by
  simp [State.readReg, State.reset]

@[simp] theorem State.reset_readCsr (a : CsrIdx) : State.reset.readCsr a = 0#32 := rfl

/-- An image loaded into an empty store gives its own bytes, and 0 past its end. -/
theorem readByte_loadBytes_empty (image : List Byte) (a k : Nat) :
    readByte (loadBytes [] a image) (a + k) = image.getD k 0 := by
  rw [readByte_loadBytes]
  by_cases hk : k < image.length
  · simp [hk]
  · simp [hk, readByte, sparseGet, unlistedByte]

end

/-! ## The branches of the run loop (R304) -/

section
variable {s : State} {budget n k : Nat}

theorem pollResult_zero : pollResult 0 = none := rfl

theorem pollResult_one : pollResult 1 = some .pass := rfl

theorem pollResult_of_fail {v : Word} (h0 : v ≠ 0) (h1 : v ≠ 1) :
    pollResult v = some (.fail (v.toNat / 2)) := by
  rw [pollResult, if_neg h0, if_neg h1, BitVec.toNat_ushiftRight, Nat.shiftRight_eq_div_pow,
    pow_one]

theorem runCycles_succ_of_fatal {r : Fault} (h : (cycle s).status = .fatal r) :
    runCycles budget (n + 1) s = (.fatal r, cycle s) := by
  simp only [runCycles, h]

theorem runCycles_succ_of_poll_some {r : RunResult} (h : (cycle s).status = .running)
    (hp : pollResult (hostWord (cycle s)) = some r) :
    runCycles budget (n + 1) s = (r, cycle s) := by
  simp only [runCycles, h, hp]

theorem runCycles_succ_of_poll_none (h : (cycle s).status = .running)
    (hp : pollResult (hostWord (cycle s)) = none) :
    runCycles budget (n + 1) s = runCycles budget n (cycle s) := by
  simp only [runCycles, h, hp]

/-! ## Quiet cycles -/

/-- The first cycle is quiet, and the others are quiet from the state it leaves. -/
theorem quietFor_succ_iff : QuietFor (k + 1) s ↔
    ((cycle s).status = .running ∧ hostWord (cycle s) = 0) ∧ QuietFor k (cycle s) :=
  Nat.forall_lt_succ_left

/-- The loop passes over quiet cycles. -/
theorem runCycles_of_quietFor (hq : QuietFor k s) :
    runCycles budget (n + k) s = runCycles budget n (cycle^[k] s) := by
  induction k generalizing s with
  | zero => rfl
  | succ k ih =>
    obtain ⟨⟨hrun, hword⟩, hrest⟩ := quietFor_succ_iff.1 hq
    have hpoll : pollResult (hostWord (cycle s)) = none := hword ▸ pollResult_zero
    calc runCycles budget (n + k + 1) s
        = runCycles budget (n + k) (cycle s) := runCycles_succ_of_poll_none hrun hpoll
      _ = runCycles budget n (cycle^[k] (cycle s)) := ih hrest

end

/-! ## The whole run (R304, R305) -/

section
variable {p : Params} {image : List Byte} {s t : State} {n k : Nat} {r : RunResult}

theorem run_of_too_long (h : p.memSize < image.length) : run p image n = (.loadFailure, none) := by
  simp only [run, resetWith_of_too_long h]

theorem run_of_runCycles (hs : resetWith p image = some s) (h : runCycles n n s = (r, t)) :
    run p image n = (r, some t) := by
  simp only [run, hs, h]

/-- Where the loop ends in the cycle after `k` quiet ones, whatever is left of the budget, the run
ends there. -/
theorem run_of_quietFor (hs : resetWith p image = some s) (hk : k < n) (hq : QuietFor k s)
    (hend : ∀ m, runCycles n (m + 1) (cycle^[k] s) = (r, t)) : run p image n = (r, some t) := by
  obtain ⟨m, rfl⟩ : ∃ m, n = m + 1 + k := ⟨n - (k + 1), by omega⟩
  exact run_of_runCycles hs ((runCycles_of_quietFor hq).trans (hend m))

theorem run_of_quietFor_budget (hs : resetWith p image = some s) (hq : QuietFor n s) :
    run p image n = (.exhausted n, some (cycle^[n] s)) := by
  have hloop : runCycles n (0 + n) s = runCycles n 0 (cycle^[n] s) := runCycles_of_quietFor hq
  rw [Nat.zero_add] at hloop
  exact run_of_runCycles hs hloop

end

/-! ## The obligations -/

/-- Settles O22: an image that fits is loaded into the empty store of the reset state. -/
theorem resetLeavesTheStatedState : Obligations.ResetLeavesTheStatedState := fun _ image hfit =>
  ⟨_, resetWith_of_fits hfit, rfl, rfl, State.reset_readReg, State.reset_readCsr, rfl, rfl,
    readByte_loadBytes_empty image memBase⟩

/-- Settles O24: the loop passes over the `k` quiet cycles, and the next one decides. -/
theorem runEndsAsTheFirstPollSays : Obligations.RunEndsAsTheFirstPollSays := by
  refine ⟨fun s => toNat_readLE_four s.mem s.params.hostIoAddr, fun p image n =>
    ⟨run_of_too_long, fun s hs => ⟨fun k hk hq => ?_, run_of_quietFor_budget hs⟩⟩⟩
  rw [Function.iterate_succ_apply']
  refine ⟨fun r hr => run_of_quietFor hs hk hq fun _ => runCycles_succ_of_fatal hr,
    fun hrun => ?_⟩
  have hends {r : RunResult} (hp : pollResult (hostWord (cycle (cycle^[k] s))) = some r) :
      run p image n = (r, some (cycle (cycle^[k] s))) :=
    run_of_quietFor hs hk hq fun _ => runCycles_succ_of_poll_some hrun hp
  exact ⟨fun h1 => hends (h1 ▸ pollResult_one), fun h0 h1 => hends (pollResult_of_fail h0 h1)⟩

/-- Settles O23: the empty image fits and leaves the store empty. -/
theorem resetStateIsResetWithTheEmptyImage : Obligations.ResetStateIsResetWithTheEmptyImage :=
  resetWith_of_fits (Nat.zero_le _)

/-- Settles O19: the reset state is a reset with an image that fits, under legal parameters. -/
theorem resetMeetsTheInvariant : Obligations.ResetMeetsTheInvariant :=
  resetWith_inv (by decide : exampleParams.valid = true) resetStateIsResetWithTheEmptyImage

end Sys2Proof.Machine
